-- ==== Sys2Proof/Word.lean ====
section
/-! DEFINITION. The words of the block: bytes and 16-bit values (spec 00_scope.md section 4). -/

namespace Sys2Proof

/-- A byte, the unit of access (20_memory.md R51). -/
abbrev Byte := BitVec 8

/-- An unsigned 16-bit value, the spec's `u16` (00_scope.md section 4). -/
abbrev Half := BitVec 16

/-- A byte string: a finite sequence of bytes, first byte first (00_scope.md section 4). -/
abbrev Bytes := List Byte

end Sys2Proof
end

