-- ==== Sys2Proof/Machine/Bytes.lean ====
section
/-! DEFINITION. Byte order and byte access (20_memory.md section 2). -/

namespace Sys2Proof.Machine

/-- `v[7:0]`. -/
def lo8 (v : Half) : Byte := v.extractLsb' 0 8

/-- `v[15:8]`. -/
def hi8 (v : Half) : Byte := v.extractLsb' 8 8

/-- The u16 whose low byte comes first (R53, R55, R102). -/
def le16 (b0 b1 : Byte) : Half := b1 ++ b0

/-- The u16 whose high byte comes first (R54). -/
def be16 (b0 b1 : Byte) : Half := b0 ++ b1

/-- `B[i]`. R50: every rule checks the length before it indexes, so the 0 past the end is never used (entry 14). -/
def byteAt (b : Bytes) (i : Nat) : Byte := b.getD i 0

/-- The `n` low bytes of a number, the least significant first. -/
def leBytes : Nat → Nat → Bytes
  | 0, _ => []
  | n + 1, w => BitVec.ofNat 8 w :: leBytes n (w / 256)

end Sys2Proof.Machine
end

