-- ==== Sys2Proof/Machine/Crc.lean ====
section
/-! DEFINITION. The CRC unit's function (40_checksum.md R110 to R120). It has no state (10_state.md R20). -/

namespace Sys2Proof.Machine

/-- `reflect_N(v)`: bit `i` of the result is bit `N-1-i` of `v` (00_scope.md section 4). -/
def reflect {n : Nat} (v : BitVec n) : BitVec n := v.reverse

/-- One of the eight shifts of a byte (R111): left, with the polynomial where the top bit leaves. -/
def crcShift {w : Nat} (poly reg : BitVec w) : BitVec w :=
  if reg.msb then (reg <<< 1) ^^^ poly else reg <<< 1

/-- `n` shifts. -/
def crcShifts {w : Nat} (poly : BitVec w) : Nat → BitVec w → BitVec w
  | 0, reg => reg
  | n + 1, reg => crcShifts poly n (crcShift poly reg)

/-- One byte enters the register at the top (R111). -/
def crcByte {w : Nat} (poly : BitVec w) (refIn : Bool) (reg : BitVec w) (d : Byte) : BitVec w :=
  crcShifts poly 8 (reg ^^^ ((if refIn then reflect d else d).setWidth w <<< (w - 8)))

/-- The register after all bytes, the first byte first (R111). -/
def crcReg {w : Nat} (poly : BitVec w) (refIn : Bool) (reg : BitVec w) (data : Bytes) : BitVec w :=
  data.foldl (crcByte poly refIn) reg

/-- `CRC(w, poly, init, xorOut, refIn, refOut, D)` (R111; entry 15), for `w` 8 or 16. -/
def crc {w : Nat} (poly init xorOut : BitVec w) (refIn refOut : Bool) (data : Bytes) : BitVec w :=
  (if refOut then reflect (crcReg poly refIn init data) else crcReg poly refIn init data) ^^^ xorOut

/-- The protocol's CRC-8 (R116). -/
def crc8 (data : Bytes) : Byte := crc 0x31#8 0xEE#8 0x00#8 true true data

/-- The protocol's CRC-16 (R117). -/
def crc16 (data : Bytes) : Half := crc 0x1021#16 0x496C#16 0x0000#16 true true data

/-- One shift of the right-shifting form (R118). -/
def rcrcShift {w : Nat} (rpoly reg : BitVec w) : BitVec w :=
  if reg.getLsbD 0 then (reg >>> 1) ^^^ rpoly else reg >>> 1

/-- `n` shifts of the right-shifting form. -/
def rcrcShifts {w : Nat} (rpoly : BitVec w) : Nat → BitVec w → BitVec w
  | 0, reg => reg
  | n + 1, reg => rcrcShifts rpoly n (rcrcShift rpoly reg)

/-- The right-shifting form of a CRC with both reflections (R118). No command uses it: R118 says it equals `crc`. -/
def rcrc {w : Nat} (poly init xorOut : BitVec w) (data : Bytes) : BitVec w :=
  data.foldl (fun reg d => rcrcShifts (reflect poly) 8 (reg ^^^ d.setWidth w)) (reflect init) ^^^ xorOut

end Sys2Proof.Machine
end

