-- ==== Sys2Proof/Config.lean ====
section
/-! DEFINITION. What one instance of the block fixes: the constants of 00_scope.md R2 and the parameters of R3, R4 and R6.
The parameters that the spec leaves OPEN are one opaque constant: a claim that mentions them is true for every value. -/

namespace Sys2Proof.Config

/-- `MAGIC` (R2, R72). -/
def magic : Byte := 0x55
/-- `VERSION`, 6 bits (R2, R74). -/
def version : BitVec 6 := 1
/-- `MIN_LEN` (R2): the shortest frame. -/
def minLen : Nat := 13
/-- `HDR_LEN` (R2): the payload's offset. -/
def hdrLen : Nat := 11
/-- `SRC_MAX_LEN` (R2): the bound of the framer's step d (42_framer.md R175). -/
def srcMaxLen : Nat := 1024
/-- `FIELD_MAX_LEN` (R2): the largest 10-bit value. -/
def fieldMaxLen : Nat := 1023
/-- `MAX_PAYLOAD` (R2). -/
def maxPayload : Nat := 1010
/-- `POLL_LIMIT` (R2). -/
def pollLimit : BitVec 8 := 30
/-- `POLL_PERIOD` in milliseconds (R2). The environment's timer: no command reads it (60_exceptions.md R261; entry 16). -/
def pollPeriodMs : Nat := 500
/-- The largest string a one-byte `P_LEN_PREFIX` can count (R6; 43_pairing.md R205). -/
def maxString : Nat := 255
/-- `P_PAIR_FLAGS`, decided: REQUEST (R6, D16). -/
def pairFlags : Byte := 0x40

/-- The OPEN parameters (R3, R4, R6; decisions D12, D15, D16). -/
structure Params where
  /-- `P_SEQ_INIT` (R3). -/
  seqInit : Half
  /-- `P_ACC_CAP` (R4): a byte count, or none for unbounded (entry 9). -/
  accCap : Option Nat
  /-- `P_WIFI_CMDSET` (R6). -/
  wifiCmdSet : Byte
  /-- `P_PIN_SET_CMDID` (R6). -/
  pinSetCmdId : Byte
  /-- `P_APPROVED_CMDID` (R6). -/
  approvedCmdId : Byte
  /-- `P_TRIGGER` (R6, R100): its first and its second byte. -/
  trigger : Byte × Byte
  /-- `P_PAIR_TARGET` (R6). -/
  pairTarget : Half
  /-- `P_SETTLE_DELAY` (R6), in the environment's unit of time: no command reads it (43_pairing.md R210; entry 16). -/
  settleDelay : Nat
  deriving DecidableEq, Repr, Inhabited

/-- The parameters of this instance. No body: nothing can be proved of their values (entry 8). -/
opaque params : Params

/-- The sizing rule of R4: a finite accumulator holds the longest remainder and the largest chunk delivered. -/
def Params.CapAdmits (p : Params) (maxChunk : Nat) : Prop :=
  ∀ cap, p.accCap = some cap → 1022 + maxChunk ≤ cap

end Sys2Proof.Config
end

