-- ==== Sys2Proof/Machine/Port.lean ====
section
/-! DEFINITION. What leaves the block: responses, results, events and transport requests (30_encoding.md R94 to R96;
60_exceptions.md R250), the frame record (41_codec.md R139), and the codes of the pairing FSM (10_state.md R27, R28). -/

namespace Sys2Proof.Machine

/-- The pairing FSM's state (R27). Code 7 is never held, so it has no constructor (entry 12). -/
inductive PState where
  | idle | triggerSent | credentialsSent | awaitingApproval | paired | timedOut | aborted
  deriving DecidableEq, Repr

/-- The pairing FSM's sub-state (R28). -/
inductive Phase where
  /-- No write in flight, no delay running: the spec's `None`. -/
  | none
  /-- The trigger `writeTrigger` is in flight. -/
  | trigWrite
  /-- The settle delay is running. -/
  | settle
  /-- The credential `write` is in flight. -/
  | credWrite
  deriving DecidableEq, Repr

/-- The record of a decoded frame (R139). -/
structure FrameRecord where
  magic : Byte
  length : BitVec 10
  version : BitVec 6
  headerChecksum : Byte
  sender : Byte
  receiver : Byte
  target : Half
  sequenceId : Half
  flags : Byte
  commandSet : Byte
  commandId : Byte
  payload : Bytes
  trailingChecksum : Half
  raw : Bytes
  deriving DecidableEq, Repr

/-- The parameter an `ERR_PARAM` names (R113). -/
inductive ParamField where
  | width | poly | init | xorOut
  deriving DecidableEq, Repr

/-- The operand an `ERR_LENGTH` names (R250; entry 10). -/
inductive LengthField where
  | payload | ident | pin
  deriving DecidableEq, Repr

/-- A command's result when its status is `OK` (R88, R94). -/
inductive Result where
  /-- The spec's `none`. -/
  | none
  | u16 (v : Half)
  | bytes (b : Bytes)
  | frame (f : FrameRecord)
  /-- PAIR_STATUS's tuple (R230). -/
  | session (pstate : BitVec 3) (phase : BitVec 2) (polls : BitVec 8) (paired : BitVec 1)
  deriving DecidableEq, Repr

/-- A command's response: its status with the result or the error info (R94, R250). -/
inductive Response where
  | ok (result : Result)
  | errIllegal (opcode : Byte)
  | errOperand (index : Nat)
  | errParam (field : ParamField)
  | errLength (field : LengthField) (n : Nat)
  | decShort (held : Nat)
  | decMagic (byte : Byte)
  | decLength (length : Nat)
  | decIncomplete (held : Nat) (need : Nat)
  | decChecksum (which : BitVec 2)
  | errOverflow (held : Nat) (add : Nat)
  | errState (pstate : PState) (phase : Phase)
  | errTransport (phase : Phase)
  deriving DecidableEq, Repr

/-- Why a handshake was aborted (R95, R208). -/
inductive AbortReason where
  | transport | cancel
  deriving DecidableEq, Repr

/-- The pairing outcomes (R95, R202). -/
inductive PairOutcome where
  | paired
  | pairingRequired
  | pairingTimeout
  | pairingAborted (reason : AbortReason)
  deriving DecidableEq, Repr

/-- The events (R95). -/
inductive Event where
  | frameOut (f : FrameRecord)
  /-- Bit 0 of `which` reports the header CRC-8, bit 1 the trailing CRC-16 (R141). -/
  | checksumMismatch (raw : Bytes) (which : BitVec 2)
  | outcome (o : PairOutcome)
  deriving DecidableEq, Repr

/-- The transport's channels (R96). -/
inductive Channel where
  /-- `write`, the command channel. -/
  | cmd
  /-- `writeTrigger`, the secondary channel. -/
  | trig
  deriving DecidableEq, Repr

/-- A transport request (R96). -/
structure TxReq where
  channel : Channel
  data : Bytes
  deriving DecidableEq, Repr

/-- What a command puts out: one response, and its events and transport requests in order (R86). -/
structure Output where
  response : Option Response
  events : List Event
  requests : List TxReq
  deriving DecidableEq, Repr

end Sys2Proof.Machine
end

