-- ==== Sys2Proof/Machine/Flags.lean ====
section
/-! DEFINITION. The bits the block tests. It has no condition flags (40_checksum.md and 41_codec.md: "the block has no
flags"); what it tests is a frame's response-flag bit and class (30_encoding.md R78, R97, R98), its status byte
(43_pairing.md R214) and the two bits of a checksum report (41_codec.md R141). -/

namespace Sys2Proof.Machine

/-- The response-flag bit, mask 0x80 (R78, D18). -/
def responseFlag (flags : Byte) : Bool := flags &&& 0x80 != 0

/-- A PIN-set status response (R97). -/
def isPinSetResponse (p : Config.Params) (f : FrameRecord) : Bool :=
  f.commandSet == p.wifiCmdSet && f.commandId == p.pinSetCmdId && responseFlag f.flags

/-- An approval notice, with any flags (R98). -/
def isApprovalNotice (p : Config.Params) (f : FrameRecord) : Bool :=
  f.commandSet == p.wifiCmdSet && f.commandId == p.approvedCmdId

/-- `StatusByte(f)`: the second payload byte if present, else the first, else none (R214). -/
def statusByte (f : FrameRecord) : Option Byte :=
  match f.payload with
  | [] => none
  | [b] => some b
  | _ :: b :: _ => some b

/-- The checksum report: bit 0 the header CRC-8, bit 1 the trailing CRC-16 (R141). -/
def mismatchBits (headerBad trailerBad : Bool) : BitVec 2 :=
  (if headerBad then 1 else 0) ||| (if trailerBad then 2 else 0)

end Sys2Proof.Machine
end

