-- ==== Sys2Proof/Machine/Frame.lean ====
section
/-! DEFINITION. The DUML frame: its layout (30_encoding.md R70 to R83), its encoding (41_codec.md R133) and its decoding
(R138 to R142). -/

namespace Sys2Proof.Machine

/-- The 10-bit length field of bytes 1 and 2 (R73). -/
def lengthField (b1 b2 : Byte) : BitVec 10 := b2.extractLsb' 0 2 ++ b1

/-- The length a byte string's header claims, `F[1] | (F[2][1:0] << 8)`, as a number (R73). -/
def frameLength (f : Bytes) : Nat := (lengthField (byteAt f 1) (byteAt f 2)).toNat

/-- Byte 2 of a frame: `F[2][1:0] = L[9:8]`, `F[2][7:2] = version` (R71, R73). -/
def lengthVersionByte (version : BitVec 6) (len : BitVec 10) : Byte := version ++ len.extractLsb' 8 2

/-- The three bytes of a frame that its CRC-8 covers (R133, R134). -/
def frameHead (len : BitVec 10) : Bytes :=
  [Config.magic, len.extractLsb' 0 8, lengthVersionByte Config.version len]

/-- The bytes of a frame that its CRC-16 covers: offsets 0 to 10+N (R133). -/
def frameBody (target seq : Half) (flags commandSet commandId : Byte) (payload : Bytes) : Bytes :=
  let head := frameHead (BitVec.ofNat 10 (Config.minLen + payload.length))
  head ++ [crc8 head, lo8 target, hi8 target, hi8 seq, lo8 seq, flags, commandSet, commandId] ++ payload

/-- The frame ENCODE writes for a given sequence number (R133). -/
def buildFrame (target seq : Half) (flags commandSet commandId : Byte) (payload : Bytes) : Bytes :=
  let body := frameBody target seq flags commandSet commandId payload
  body ++ [lo8 (crc16 body), hi8 (crc16 body)]

/-- The trailing checksum of a frame of `L` bytes: offsets `L-2` and `L-1`, little-endian (R82). -/
def trailerOf (f : Bytes) : Half := le16 (byteAt f (f.length - 2)) (byteAt f (f.length - 1))

/-- The bytes the trailing CRC-16 covers: `F[0:L-2)` (R82). -/
def coveredBytes (f : Bytes) : Bytes := f.take (f.length - 2)

/-- `Fields(F)`: the frame record, read positionally (R139, R140). -/
def fieldsOf (f : Bytes) : FrameRecord where
  magic := byteAt f 0
  length := lengthField (byteAt f 1) (byteAt f 2)
  version := (byteAt f 2).extractLsb' 2 6
  headerChecksum := byteAt f 3
  sender := byteAt f 4
  receiver := byteAt f 5
  target := le16 (byteAt f 4) (byteAt f 5)
  sequenceId := be16 (byteAt f 6) (byteAt f 7)
  flags := byteAt f 8
  commandSet := byteAt f 9
  commandId := byteAt f 10
  payload := (coveredBytes f).drop Config.hdrLen
  trailingChecksum := trailerOf f
  raw := f

/-- `CheckCRCs(F)`'s `which`: both checksums are always computed (R141). -/
def checksumReport (f : Bytes) : BitVec 2 :=
  mismatchBits (byteAt f 3 != crc8 (f.take 3)) (trailerOf f != crc16 (coveredBytes f))

/-- A valid frame (R83). -/
def validFrame (f : Bytes) : Bool :=
  f.length == frameLength f && byteAt f 0 == Config.magic && decide (Config.minLen ≤ frameLength f)
    && decide (frameLength f ≤ Config.fieldMaxLen) && byteAt f 3 == crc8 (f.take 3) && trailerOf f == crc16 (coveredBytes f)

/-- `DecodeCore(D, strict)` (R138, R142): the error's response, or the frame record of the first `L` bytes. -/
def decodeCore (d : Bytes) (strict : Bool) : Except Response FrameRecord :=
  if d.length < Config.minLen then .error (.decShort d.length)
  else if byteAt d 0 ≠ Config.magic then .error (.decMagic (byteAt d 0))
  else if frameLength d < Config.minLen then .error (.decLength (frameLength d))
  else if d.length < frameLength d then .error (.decIncomplete d.length (frameLength d))
  else if strict ∧ checksumReport (d.take (frameLength d)) ≠ 0 then
    .error (.decChecksum (checksumReport (d.take (frameLength d))))
  else .ok (fieldsOf (d.take (frameLength d)))

end Sys2Proof.Machine
end

