-- ==== Sys2Proof/Machine/Operands.lean ====
section
/-! DEFINITION. The checks commands make on the values of their operands (the operand forms themselves, R89 and R102, are
read in Sys2Proof/Decode.lean). -/

namespace Sys2Proof.Machine

/-- The value has a bit above the width: `v >= (1 << width)` (R113). -/
def widerThan (width : Byte) (v : Half) : Bool := decide (2 ^ width.toNat ≤ v.toNat)

/-- The first CRC parameter that is out of its range, in the order of R113. -/
def badParam (width : Byte) (poly init xorOut : Half) : Option ParamField :=
  if width ≠ 8 ∧ width ≠ 16 then some .width
  else if widerThan width poly then some .poly
  else if widerThan width init then some .init
  else if widerThan width xorOut then some .xorOut
  else none

/-- The first string of a PAIR_START that is over 255 bytes, and its length (R205). -/
def badString (ident pin : Bytes) : Option (LengthField × Nat) :=
  if Config.maxString < ident.length then some (.ident, ident.length)
  else if Config.maxString < pin.length then some (.pin, pin.length)
  else none

/-- `P_ACC_CAP` is finite and the chunk would exceed it (R170, R171). -/
def overflows (p : Config.Params) (acc chunk : Bytes) : Bool :=
  match p.accCap with
  | none => false
  | some cap => decide (cap < acc.length + chunk.length)

end Sys2Proof.Machine
end

