-- ==== Sys2Proof/Machine/State.lean ====
section
/-! DEFINITION. The block's state (10_state.md section 1), the reasons a step could stop, and the machine after power-on
reset (70_reset_and_hazards.md R283). -/

namespace Sys2Proof.Machine

/-- All state the spec gives the block, and the two sides of its port, which are the model's own. -/
structure State where
  /-- `SEQ` (R21). -/
  seq : Half
  /-- `STRICT` (R23). -/
  strict : Bool
  /-- `ACC`, the framer's remainder (R24). -/
  acc : Bytes
  /-- `PSTATE` (R27). -/
  pstate : PState
  /-- `PHASE` (R28). -/
  phase : Phase
  /-- `POLLS` (R29). -/
  polls : BitVec 8
  /-- `PAIRED` (R30). -/
  paired : Bool
  /-- `ID` (R31). -/
  ident : Bytes
  /-- `PIN` (R31). -/
  pin : Bytes
  /-- The model's own: the command bytes delivered to the port and not yet taken (R86, R102; entry 1). -/
  port : Bytes
  /-- The model's own: what the last command put out (R94, R95, R96; entry 2). No command reads it (R255). -/
  out : Output
  deriving DecidableEq, Repr

/-- No reason: the block stops on no command (60_exceptions.md R254, R255). Nobody raises a fault, which is safe: an
error is a status in a response. -/
inductive Fault where
  deriving DecidableEq, Repr

/-- The one refusal is the host's convention. -/
inductive Refusal where
  /-- A command without a meaning, raised by an arm of exec only. Every command has a meaning, so nothing raises it; safe. -/
  | notModelled (mnemonic : String)
  deriving DecidableEq, Repr

/-- The machine after power-on reset (R281, R283). The port's two sides are empty (entries 1 and 2). -/
def State.reset : State where
  seq := Config.params.seqInit
  strict := false
  acc := []
  pstate := .idle
  phase := .none
  polls := 0
  paired := false
  ident := []
  pin := []
  port := []
  out := { response := none, events := [], requests := [] }

/-- The answer of a step. -/
abbrev Answer := Host.Outcome State Fault Refusal

end Sys2Proof.Machine
end

