-- ==== Sys2Proof/Machine/Ops.lean ====
section
/-! DEFINITION. The named operations of the meanings: register writes, what a command puts out, ending a command by
`respond`, `raise` and `end` (00_scope.md section 4; 60_exceptions.md R252), the sequence step, and the pairing FSM's
shared steps. -/

namespace Sys2Proof.Machine

/-- `SEQ <- v`. -/
def State.setSeq (s : State) (v : Half) : State := { s with seq := v }
/-- `STRICT <- v`. -/
def State.setStrict (s : State) (v : Bool) : State := { s with strict := v }
/-- `ACC <- v`. -/
def State.setAcc (s : State) (v : Bytes) : State := { s with acc := v }
/-- `PSTATE <- v`. -/
def State.setPState (s : State) (v : PState) : State := { s with pstate := v }
/-- `PHASE <- v`. -/
def State.setPhase (s : State) (v : Phase) : State := { s with phase := v }
/-- `POLLS <- v`. -/
def State.setPolls (s : State) (v : BitVec 8) : State := { s with polls := v }
/-- `PAIRED <- v`. -/
def State.setPaired (s : State) (v : Bool) : State := { s with paired := v }
/-- `ID <- v`. -/
def State.setIdent (s : State) (v : Bytes) : State := { s with ident := v }
/-- `PIN <- v`. -/
def State.setPin (s : State) (v : Bytes) : State := { s with pin := v }
/-- The port's input after bytes were taken from it (entry 1). -/
def State.setPort (s : State) (v : Bytes) : State := { s with port := v }

/-- A command begins: the port's output is free of the command before it (R255; entry 2). -/
def State.start (s : State) : State := { s with out := { response := none, events := [], requests := [] } }

/-- `emit <Event>`: append to the command's event list (R95). -/
def State.emit (s : State) (e : Event) : State := { s with out := { s.out with events := s.out.events ++ [e] } }

/-- `txreq(channel, B)` (R96). -/
def State.txreq (s : State) (channel : Channel) (data : Bytes) : State :=
  { s with out := { s.out with requests := s.out.requests ++ [{ channel := channel, data := data }] } }

/-- `respond(result)`: the command ends with status OK (R94). -/
def State.respond (s : State) (result : Result) : State := { s with out := { s.out with response := some (.ok result) } }

/-- `end <Status>(info)`: the command ends, its effects kept (R208, R252). -/
def State.endWith (s : State) (status : Response) : State := { s with out := { s.out with response := some status } }

/-- `raise <Status>(info)` of a command begun in `s`: no state is written, no event emitted, no request issued (R252). -/
def State.raise (s : State) (status : Response) : State :=
  { s with out := { response := some status, events := [], requests := [] } }

/-- The numeric code of a status (R250). -/
def statusCode : Response → Byte
  | .ok _ => 0x00
  | .errIllegal _ => 0x01
  | .errOperand _ => 0x02
  | .errParam _ => 0x03
  | .errLength _ _ => 0x04
  | .decShort _ => 0x10
  | .decMagic _ => 0x11
  | .decLength _ => 0x12
  | .decIncomplete _ _ => 0x13
  | .decChecksum _ => 0x14
  | .errOverflow _ _ => 0x20
  | .errState _ _ => 0x30
  | .errTransport _ => 0x31

/-- The code of `PSTATE` (R27). -/
def pstateCode : PState → BitVec 3
  | .idle => 0
  | .triggerSent => 1
  | .credentialsSent => 2
  | .awaitingApproval => 3
  | .paired => 4
  | .timedOut => 5
  | .aborted => 6

/-- The code of `PHASE` (R28). -/
def phaseCode : Phase → BitVec 2
  | .none => 0
  | .trigWrite => 1
  | .settle => 2
  | .credWrite => 3

/-- The states left only by CONN_RESET (R27, R232). -/
def isTerminal : PState → Bool
  | .paired => true
  | .timedOut => true
  | .aborted => true
  | _ => false

/-- The states of the bounded wait (R225). -/
def isWaiting : PState → Bool
  | .credentialsSent => true
  | .awaitingApproval => true
  | _ => false

/-- `SeqNext()`: the current value, and the register incremented modulo 65536 (R132). -/
def State.seqNext (s : State) : Half × State := (s.seq, s.setSeq (s.seq + 1))

/-- The frame of R133 with the next sequence number (R132). -/
def State.encodeFrame (s : State) (target : Half) (flags commandSet commandId : Byte) (payload : Bytes) : Bytes × State :=
  (buildFrame target s.seqNext.1 flags commandSet commandId payload, s.seqNext.2)

/-- The credential frame's payload (R99). Each prefix is one byte (entry 18). -/
def credentialPayload (ident pin : Bytes) : Bytes :=
  [BitVec.ofNat 8 ident.length] ++ ident ++ [BitVec.ofNat 8 pin.length] ++ pin

/-- `Abort(reason)` up to its `end` (R208). -/
def State.abort (s : State) (reason : AbortReason) : State :=
  ((s.setPState .aborted).setPhase .none).emit (.outcome (.pairingAborted reason))

/-- `EnterAwaiting()` (R218): `POLLS` is not reset. -/
def State.enterAwaiting (s : State) : State := (s.setPState .awaitingApproval).emit (.outcome .pairingRequired)

/-- `EnterPairedFromStatus()` (R220) and `EnterPairedFromApproval()` (R222). -/
def State.enterPaired (s : State) : State := ((s.setPState .paired).setPaired true).emit (.outcome .paired)

/-- `StatusRule(f)` (R216; R215, R217, R219). -/
def State.statusRule (p : Config.Params) (s : State) (f : FrameRecord) : State :=
  if isPinSetResponse p f then
    if statusByte f = some 0x01 then s.enterPaired
    else if statusByte f = some 0x02 then s.enterAwaiting
    else s
  else s

/-- `ApprovalRule(f)` (R221). -/
def State.approvalRule (p : Config.Params) (s : State) (f : FrameRecord) : State :=
  if isApprovalNotice p f ∧ f.payload.head? = some 0x01 then s.enterPaired else s

/-- `Offer(f)`: the FSM's reaction to one decoded frame (R212, R223). -/
def State.offer (p : Config.Params) (s : State) (f : FrameRecord) : State :=
  match s.pstate with
  | .credentialsSent => s.statusRule p f
  | .awaitingApproval => s.approvalRule p f
  | .idle => s
  | .triggerSent => s
  | .paired => s
  | .timedOut => s
  | .aborted => s

/-- `Deliver(F)`: decode a candidate with the current `STRICT` and route the result (R179; its last branch, R180). -/
def State.deliver (p : Config.Params) (s : State) (f : Bytes) : State :=
  match decodeCore f s.strict with
  | .ok r => (s.emit (.frameOut r)).offer p r
  | .error (.decChecksum which) => s.emit (.checksumMismatch f which)
  | .error _ => s

/-- Steps a and b: discard the bytes before the first magic byte, all of them where there is none (R173). -/
def dropToMagic (r : Bytes) : Bytes := r.dropWhile (· ≠ Config.magic)

/-- The framer's loop over the working string `R` (R172 to R177): the remainder and the state after it. Each pass that goes
on removes a byte, so `fuel` as long as `R` never runs out (entry 13). -/
def feedLoop (p : Config.Params) : Nat → Bytes → State → Bytes × State
  | 0, r, s => (r, s)
  | fuel + 1, r, s =>
    if r.length < Config.minLen then (r, s)
    else if dropToMagic r = [] then ([], s)
    else if (dropToMagic r).length < 4 then (dropToMagic r, s)
    else if frameLength (dropToMagic r) < Config.minLen ∨ Config.srcMaxLen < frameLength (dropToMagic r) then
      feedLoop p fuel ((dropToMagic r).drop 1) s
    else if (dropToMagic r).length < frameLength (dropToMagic r) then (dropToMagic r, s)
    else
      feedLoop p fuel ((dropToMagic r).drop (frameLength (dropToMagic r)))
        (s.deliver p ((dropToMagic r).take (frameLength (dropToMagic r))))

/-- All that CONN_RESET writes (R282). -/
def State.connectionReset (p : Config.Params) (s : State) : State :=
  ((((((((s.setSeq p.seqInit).setAcc []).setPState .idle).setPhase .none).setPolls 0).setPaired false).setIdent []).setPin [])

end Sys2Proof.Machine
end

