-- ==== Sys2Proof/Machine/Checksum.lean ====
section
/-! DEFINITION. The checksum family (40_checksum.md section 2). -/

namespace Sys2Proof.Machine

/-- The generic CRC of checked parameters, zero-extended to 16 bits (R113, R114). -/
def crcGeneric (width : Byte) (poly init xorOut : Half) (refIn refOut : Bool) (data : Bytes) : Half :=
  if width = 8 then
    (crc (poly.setWidth 8) (init.setWidth 8) (xorOut.setWidth 8) refIn refOut data).setWidth 16
  else crc poly init xorOut refIn refOut data

/-- `CRC` (R113). -/
def execCrc (width : Byte) (poly init xorOut : Half) (refIn refOut : Bool) (data : Bytes) (s : State) : Answer :=
  .next (match badParam width poly init xorOut with
    | some field => s.raise (.errParam field)
    | none => s.start.respond (.u16 (crcGeneric width poly init xorOut refIn refOut data)))

/-- `CRC8` (R116). -/
def execCrc8 (data : Bytes) (s : State) : Answer := .next (s.start.respond (.u16 ((crc8 data).setWidth 16)))

/-- `CRC16` (R117). -/
def execCrc16 (data : Bytes) (s : State) : Answer := .next (s.start.respond (.u16 (crc16 data)))

end Sys2Proof.Machine
end

