-- ==== Sys2Proof/Machine/Codec.lean ====
section
/-! DEFINITION. The codec and sequence family (41_codec.md). -/

namespace Sys2Proof.Machine

/-- `SEQ_RESET` (R130). -/
def execSeqReset (value : Half) (s : State) : Answer := .next ((s.start.setSeq value).respond .none)

/-- `SEQ_PEEK` (R131). -/
def execSeqPeek (s : State) : Answer := .next (s.start.respond (.u16 s.seq))

/-- `ENCODE` (R133, R136). -/
def execEncode (target : Half) (flags commandSet commandId : Byte) (payload : Bytes) (s : State) : Answer :=
  .next (if Config.maxPayload < payload.length then s.raise (.errLength .payload payload.length)
    else
      (s.start.encodeFrame target flags commandSet commandId payload).2.respond
        (.bytes (s.start.encodeFrame target flags commandSet commandId payload).1))

/-- `DECODE` (R138). -/
def execDecode (data : Bytes) (s : State) : Answer :=
  .next (match decodeCore data s.strict with
    | .ok f => s.start.respond (.frame f)
    | .error status => s.raise status)

/-- `SET_STRICT` (R145). -/
def execSetStrict (value : Bool) (s : State) : Answer := .next ((s.start.setStrict value).respond .none)

end Sys2Proof.Machine
end

