-- ==== Sys2Proof/Machine/Control.lean ====
section
/-! DEFINITION. The control family (70_reset_and_hazards.md section 1). -/

namespace Sys2Proof.Machine

/-- `CONN_RESET` (R282): `STRICT` is kept, and so are the port's undelivered bytes (entry 22). -/
def execConnReset (s : State) : Answer := .next ((s.start.connectionReset Config.params).respond .none)

end Sys2Proof.Machine
end

