-- ==== Sys2Proof/Machine/Framer.lean ====
section
/-! DEFINITION. The framer family (42_framer.md). -/

namespace Sys2Proof.Machine

/-- The loop of FEED over `ACC ++ chunk`, and step 3 (R170, R171, R178). -/
def State.feedChunk (p : Config.Params) (s : State) (chunk : Bytes) : State :=
  let r := feedLoop p (s.acc ++ chunk).length (s.acc ++ chunk) s
  (r.2.setAcc r.1).respond (.bytes r.1)

/-- `FEED` (R170). -/
def execFeed (chunk : Bytes) (s : State) : Answer :=
  .next (if overflows Config.params s.acc chunk then s.raise (.errOverflow s.acc.length chunk.length)
    else s.start.feedChunk Config.params chunk)

end Sys2Proof.Machine
end

