-- ==== Sys2Proof/Machine/Pairing.lean ====
section
/-! DEFINITION. The pairing family (43_pairing.md): one transition of the table of R201 at a time, as state operations over
the parameters, and the seven commands' meanings. -/

namespace Sys2Proof.Machine

/-- Row T1 (R205). -/
def State.sendTrigger (p : Config.Params) (s : State) (ident pin : Bytes) : State :=
  ((((s.setIdent ident).setPin pin).txreq .trig [p.trigger.1, p.trigger.2]).setPState .triggerSent).setPhase .trigWrite

/-- Row T4 (R209): the credential frame, which takes a sequence number, and its request. -/
def State.sendCredentials (p : Config.Params) (s : State) : State :=
  let r := s.encodeFrame p.pairTarget Config.pairFlags p.wifiCmdSet p.pinSetCmdId (credentialPayload s.ident s.pin)
  (r.2.txreq .cmd r.1).setPhase .credWrite

/-- Rows T10 and T11 (R225); POLLS above 255 is entry 11. -/
def State.pollOnce (s : State) : State :=
  if s.polls + 1 = Config.pollLimit
  then ((s.setPolls (s.polls + 1)).setPState .timedOut).emit (.outcome .pairingTimeout)
  else s.setPolls (s.polls + 1)

/-- `PAIR_START` (R205). -/
def execPairStart (ident pin : Bytes) (s : State) : Answer :=
  .next (if s.pstate ≠ .idle then s.raise (.errState s.pstate s.phase)
    else match badString ident pin with
      | some (field, n) => s.raise (.errLength field n)
      | none => (s.start.sendTrigger Config.params ident pin).respond .none)

/-- `PAIR_WRITE_DONE` (R207, R208). -/
def execPairWriteDone (ok : Bool) (s : State) : Answer :=
  .next (match s.phase, ok with
    | .trigWrite, false => (s.start.abort .transport).endWith (.errTransport s.phase)
    | .credWrite, false => (s.start.abort .transport).endWith (.errTransport s.phase)
    | .trigWrite, true => (s.start.setPhase .settle).respond .none
    | .credWrite, true => (((s.start.setPState .credentialsSent).setPhase .none).setPolls 0).respond .none
    | .none, _ => s.raise (.errState s.pstate s.phase)
    | .settle, _ => s.raise (.errState s.pstate s.phase))

/-- `PAIR_SETTLE_DONE` (R209). -/
def execPairSettleDone (s : State) : Answer :=
  .next (if s.phase ≠ .settle then s.raise (.errState s.pstate s.phase)
    else (s.start.sendCredentials Config.params).respond .none)

/-- `PAIR_POLL_TICK` (R225, R227). -/
def execPairPollTick (s : State) : Answer :=
  .next ((if isWaiting s.pstate then s.start.pollOnce else s.start).respond .none)

/-- `PAIR_RX` (R213). -/
def execPairRx (data : Bytes) (s : State) : Answer :=
  .next (match decodeCore data s.strict with
    | .ok f => (s.start.offer Config.params f).respond .none
    | .error status => s.raise status)

/-- `PAIR_CANCEL` (R228). -/
def execPairCancel (s : State) : Answer :=
  .next (if s.pstate = .triggerSent ∨ isWaiting s.pstate then (s.start.abort .cancel).respond .none
    else s.raise (.errState s.pstate s.phase))

/-- `PAIR_STATUS` (R230). -/
def execPairStatus (s : State) : Answer :=
  .next (s.start.respond (.session (pstateCode s.pstate) (phaseCode s.phase) s.polls (BitVec.ofBool s.paired)))

end Sys2Proof.Machine
end

