-- ==== Sys2Proof/Syntax.lean ====
section
/-! DEFINITION. The commands: one constructor per row of spec/opcode_table.json (30_encoding.md R88), the opcode names and
the operand types (R89). -/

namespace Sys2Proof

/-- A command with its operands, in the order of R88. A `u1` is a Bool. -/
inductive Instr where
  /-- `CRC` (R113). -/
  | crc (width : Byte) (poly : Half) (init : Half) (xorOut : Half) (refIn : Bool) (refOut : Bool) (data : Bytes)
  /-- `CRC8` (R116). -/
  | crc8 (data : Bytes)
  /-- `CRC16` (R117). -/
  | crc16 (data : Bytes)
  /-- `SEQ_RESET` (R130). -/
  | seqReset (value : Half)
  /-- `SEQ_PEEK` (R131). -/
  | seqPeek
  /-- `ENCODE` (R133). -/
  | encode (target : Half) (flags : Byte) (commandSet : Byte) (commandId : Byte) (payload : Bytes)
  /-- `DECODE` (R138). -/
  | decode (data : Bytes)
  /-- `SET_STRICT` (R145). -/
  | setStrict (value : Bool)
  /-- `FEED` (R170). -/
  | feed (chunk : Bytes)
  /-- `PAIR_START` (R205). -/
  | pairStart (ident : Bytes) (pin : Bytes)
  /-- `PAIR_WRITE_DONE` (R207). -/
  | pairWriteDone (ok : Bool)
  /-- `PAIR_SETTLE_DONE` (R209). -/
  | pairSettleDone
  /-- `PAIR_POLL_TICK` (R225). -/
  | pairPollTick
  /-- `PAIR_RX` (R213). -/
  | pairRx (data : Bytes)
  /-- `PAIR_CANCEL` (R228). -/
  | pairCancel
  /-- `PAIR_STATUS` (R230). -/
  | pairStatus
  /-- `CONN_RESET` (R282). -/
  | connReset
  deriving DecidableEq, Repr

/-- The assigned opcodes (R88), by name. -/
inductive Opcode where
  | crc | crc8 | crc16 | seqReset | seqPeek | encode | decode | setStrict | feed | pairStart | pairWriteDone
  | pairSettleDone | pairPollTick | pairRx | pairCancel | pairStatus | connReset
  deriving DecidableEq, Repr

/-- The families that bits 7:4 of the opcode name (R87). -/
inductive Family where
  | checksum | codec | framer | pairing | control
  deriving DecidableEq, Repr

/-- The types of operands (R89). `u3` is a result's type only (R88). -/
inductive OperandType where
  | u1 | u3 | u8 | u16 | bytes
  deriving DecidableEq, Repr

/-- An operand as the port receives it, before its range is checked (R89). -/
inductive Operand where
  /-- An unsigned number of any size. -/
  | nat (v : Nat)
  /-- A byte string carried whole. -/
  | bytes (b : Bytes)
  deriving DecidableEq, Repr

/-- What the port makes of an opcode byte and an operand tuple, in the order of R91. -/
inductive Command where
  /-- Opcode and operands are right. -/
  | instr (i : Instr)
  /-- The opcode byte is not assigned (R90). -/
  | illegal (opcode : Byte)
  /-- The operand at `index` is the first that is wrong (R89). -/
  | malformed (index : Nat)
  deriving DecidableEq, Repr

end Sys2Proof
end

