-- ==== Sys2Proof/Machine/Dispatch.lean ====
section
/-! DEFINITION. One arm per command, each a direct call of its meaning. -/

namespace Sys2Proof.Machine

def exec (i : Instr) (s : State) : Host.Outcome State Fault Refusal :=
  match i with
  | .crc width poly init xorOut refIn refOut data => Sys2Proof.Machine.execCrc width poly init xorOut refIn refOut data s
  | .crc8 data => Sys2Proof.Machine.execCrc8 data s
  | .crc16 data => Sys2Proof.Machine.execCrc16 data s
  | .seqReset value => Sys2Proof.Machine.execSeqReset value s
  | .seqPeek => Sys2Proof.Machine.execSeqPeek s
  | .encode target flags commandSet commandId payload => Sys2Proof.Machine.execEncode target flags commandSet commandId payload s
  | .decode data => Sys2Proof.Machine.execDecode data s
  | .setStrict value => Sys2Proof.Machine.execSetStrict value s
  | .feed chunk => Sys2Proof.Machine.execFeed chunk s
  | .pairStart ident pin => Sys2Proof.Machine.execPairStart ident pin s
  | .pairWriteDone ok => Sys2Proof.Machine.execPairWriteDone ok s
  | .pairSettleDone => Sys2Proof.Machine.execPairSettleDone s
  | .pairPollTick => Sys2Proof.Machine.execPairPollTick s
  | .pairRx data => Sys2Proof.Machine.execPairRx data s
  | .pairCancel => Sys2Proof.Machine.execPairCancel s
  | .pairStatus => Sys2Proof.Machine.execPairStatus s
  | .connReset => Sys2Proof.Machine.execConnReset s

end Sys2Proof.Machine
end

