-- ==== Sys2Proof/WellFormed.lean ====
section
/-! DEFINITION. The check on a command that its serialisation asks for (30_encoding.md R102): every `bytes` operand's
length fits its 2-byte prefix. All other operands carry their range in their type. -/

namespace Sys2Proof

/-- The byte string's length fits a 2-byte length prefix: 0 to 65535 (R102). -/
def fitsPrefix (b : Bytes) : Bool := decide (b.length ≤ 65535)

/-- The command can be serialised (R102; entry 19). -/
def Instr.wf : Instr → Bool
  | .crc _ _ _ _ _ _ data => fitsPrefix data
  | .crc8 data => fitsPrefix data
  | .crc16 data => fitsPrefix data
  | .seqReset _ => true
  | .seqPeek => true
  | .encode _ _ _ _ payload => fitsPrefix payload
  | .decode data => fitsPrefix data
  | .setStrict _ => true
  | .feed chunk => fitsPrefix chunk
  | .pairStart ident pin => fitsPrefix ident && fitsPrefix pin
  | .pairWriteDone _ => true
  | .pairSettleDone => true
  | .pairPollTick => true
  | .pairRx data => fitsPrefix data
  | .pairCancel => true
  | .pairStatus => true
  | .connReset => true

end Sys2Proof
end

