-- ==== Sys2Proof/Decode.lean ====
section
/-! DEFINITION. The command port's encoding (30_encoding.md section 2): opcode map, operand shapes, the operand check, the
decoder of a serialised command stream, and after it the encoder. -/

namespace Sys2Proof

open Machine (lo8 hi8 le16 leBytes)

/-- The opcode byte of each command (R88). -/
def Opcode.byte : Opcode → Byte
  | .crc => 0x01
  | .crc8 => 0x02
  | .crc16 => 0x03
  | .seqReset => 0x10
  | .seqPeek => 0x11
  | .encode => 0x12
  | .decode => 0x13
  | .setStrict => 0x14
  | .feed => 0x20
  | .pairStart => 0x30
  | .pairWriteDone => 0x31
  | .pairSettleDone => 0x32
  | .pairPollTick => 0x33
  | .pairRx => 0x34
  | .pairCancel => 0x35
  | .pairStatus => 0x36
  | .connReset => 0xF0

/-- The command an opcode byte selects, none where the byte is illegal (R88, R90, R103). -/
def Opcode.ofByte (b : Byte) : Option Opcode :=
  match b.toNat with
  | 0x01 => some .crc
  | 0x02 => some .crc8
  | 0x03 => some .crc16
  | 0x10 => some .seqReset
  | 0x11 => some .seqPeek
  | 0x12 => some .encode
  | 0x13 => some .decode
  | 0x14 => some .setStrict
  | 0x20 => some .feed
  | 0x30 => some .pairStart
  | 0x31 => some .pairWriteDone
  | 0x32 => some .pairSettleDone
  | 0x33 => some .pairPollTick
  | 0x34 => some .pairRx
  | 0x35 => some .pairCancel
  | 0x36 => some .pairStatus
  | 0xF0 => some .connReset
  | _ => none

/-- The family that bits 7:4 of an opcode byte name, none where they are reserved (R87). -/
def familyOf (b : Byte) : Option Family :=
  match (b.extractLsb' 4 4).toNat with
  | 0x0 => some .checksum
  | 0x1 => some .codec
  | 0x2 => some .framer
  | 0x3 => some .pairing
  | 0xF => some .control
  | _ => none

/-- The operand types of each command, in order (R88). -/
def Opcode.shape : Opcode → List OperandType
  | .crc => [.u8, .u16, .u16, .u16, .u1, .u1, .bytes]
  | .crc8 => [.bytes]
  | .crc16 => [.bytes]
  | .seqReset => [.u16]
  | .seqPeek => []
  | .encode => [.u16, .u8, .u8, .u8, .bytes]
  | .decode => [.bytes]
  | .setStrict => [.u1]
  | .feed => [.bytes]
  | .pairStart => [.bytes, .bytes]
  | .pairWriteDone => [.u1]
  | .pairSettleDone => []
  | .pairPollTick => []
  | .pairRx => [.bytes]
  | .pairCancel => []
  | .pairStatus => []
  | .connReset => []

/-- The operand is a value of the type (R89). -/
def OperandType.admits : OperandType → Operand → Bool
  | .u1, .nat v => decide (v < 2)
  | .u3, .nat v => decide (v < 8)
  | .u8, .nat v => decide (v < 256)
  | .u16, .nat v => decide (v < 65536)
  | .bytes, .bytes _ => true
  | _, _ => false

/-- The position of the first bad operand of a tuple against a shape, counted from `k` (R89). A missing operand is bad
at its own position, a surplus one at the position after the last of the shape (entry 6). -/
def firstBad (k : Nat) : List OperandType → List Operand → Option Nat
  | [], [] => none
  | [], _ :: _ => some k
  | _ :: _, [] => some k
  | t :: ts, v :: vs => if t.admits v then firstBad (k + 1) ts vs else some k

/-- The command with an operand tuple of its shape, none for any other tuple. -/
def Opcode.build : Opcode → List Operand → Option Instr
  | .crc, [.nat width, .nat poly, .nat init, .nat xorOut, .nat refIn, .nat refOut, .bytes data] =>
      some (.crc (BitVec.ofNat 8 width) (BitVec.ofNat 16 poly) (BitVec.ofNat 16 init) (BitVec.ofNat 16 xorOut)
        (decide (refIn = 1)) (decide (refOut = 1)) data)
  | .crc8, [.bytes data] => some (.crc8 data)
  | .crc16, [.bytes data] => some (.crc16 data)
  | .seqReset, [.nat value] => some (.seqReset (BitVec.ofNat 16 value))
  | .seqPeek, [] => some .seqPeek
  | .encode, [.nat target, .nat flags, .nat commandSet, .nat commandId, .bytes payload] =>
      some (.encode (BitVec.ofNat 16 target) (BitVec.ofNat 8 flags) (BitVec.ofNat 8 commandSet)
        (BitVec.ofNat 8 commandId) payload)
  | .decode, [.bytes data] => some (.decode data)
  | .setStrict, [.nat value] => some (.setStrict (decide (value = 1)))
  | .feed, [.bytes chunk] => some (.feed chunk)
  | .pairStart, [.bytes ident, .bytes pin] => some (.pairStart ident pin)
  | .pairWriteDone, [.nat ok] => some (.pairWriteDone (decide (ok = 1)))
  | .pairSettleDone, [] => some .pairSettleDone
  | .pairPollTick, [] => some .pairPollTick
  | .pairRx, [.bytes data] => some (.pairRx data)
  | .pairCancel, [] => some .pairCancel
  | .pairStatus, [] => some .pairStatus
  | .connReset, [] => some .connReset
  | _, _ => none

/-- The operand check of an assigned opcode (R89). Its last branch is never taken: a tuple that has the shape builds. -/
def Opcode.check (op : Opcode) (args : List Operand) : Command :=
  match firstBad 0 op.shape args with
  | some k => .malformed k
  | none =>
    match op.build args with
    | some i => .instr i
    | none => .malformed 0

/-- A command given as an opcode byte and an operand tuple: the opcode first, then the operands (R91, R251). -/
def ofTuple (opcode : Byte) (args : List Operand) : Command :=
  match Opcode.ofByte opcode with
  | none => .illegal opcode
  | some op => op.check args

/-- One operand read from the serialised stream, none where the stream ends inside it (R102). -/
def readOperand : OperandType → Bytes → Option (Operand × Bytes)
  | .u16, b0 :: b1 :: rest => some (.nat (le16 b0 b1).toNat, rest)
  | .bytes, b0 :: b1 :: rest =>
      if (le16 b0 b1).toNat ≤ rest.length
      then some (.bytes (rest.take (le16 b0 b1).toNat), rest.drop (le16 b0 b1).toNat)
      else none
  | .u1, b :: rest => some (.nat b.toNat, rest)
  | .u3, b :: rest => some (.nat b.toNat, rest)
  | .u8, b :: rest => some (.nat b.toNat, rest)
  | _, _ => none

/-- The operands of a shape read from the serialised stream, and the stream after them. A stream that ends inside an
operand gives the operands before it and nothing after (R102; entry 5). -/
def readOperands : List OperandType → Bytes → List Operand × Bytes
  | [], bs => ([], bs)
  | t :: ts, bs =>
    match readOperand t bs with
    | none => ([], [])
    | some (v, rest) => (v :: (readOperands ts rest).1, (readOperands ts rest).2)

/-- The command at the head of a serialised stream and the stream after it; none for an empty stream (R102). An illegal
opcode takes one byte (entry 4), and a stream that ends inside a command is judged as it stands (entry 7). -/
def decode : Bytes → Option (Command × Bytes)
  | [] => none
  | opcode :: rest =>
    match Opcode.ofByte opcode with
    | none => some (.illegal opcode, rest)
    | some op => some (op.check (readOperands op.shape rest).1, (readOperands op.shape rest).2)

/-- A number's bit as a `u1` operand. -/
def ofFlag (b : Bool) : Operand := .nat (if b then 1 else 0)

/-- The opcode of a command (R88). -/
def Instr.opcode : Instr → Opcode
  | .crc _ _ _ _ _ _ _ => .crc
  | .crc8 _ => .crc8
  | .crc16 _ => .crc16
  | .seqReset _ => .seqReset
  | .seqPeek => .seqPeek
  | .encode _ _ _ _ _ => .encode
  | .decode _ => .decode
  | .setStrict _ => .setStrict
  | .feed _ => .feed
  | .pairStart _ _ => .pairStart
  | .pairWriteDone _ => .pairWriteDone
  | .pairSettleDone => .pairSettleDone
  | .pairPollTick => .pairPollTick
  | .pairRx _ => .pairRx
  | .pairCancel => .pairCancel
  | .pairStatus => .pairStatus
  | .connReset => .connReset

/-- The operand tuple of a command, in the order of R88. -/
def Instr.operands : Instr → List Operand
  | .crc width poly init xorOut refIn refOut data =>
      [.nat width.toNat, .nat poly.toNat, .nat init.toNat, .nat xorOut.toNat, ofFlag refIn, ofFlag refOut, .bytes data]
  | .crc8 data => [.bytes data]
  | .crc16 data => [.bytes data]
  | .seqReset value => [.nat value.toNat]
  | .seqPeek => []
  | .encode target flags commandSet commandId payload =>
      [.nat target.toNat, .nat flags.toNat, .nat commandSet.toNat, .nat commandId.toNat, .bytes payload]
  | .decode data => [.bytes data]
  | .setStrict value => [ofFlag value]
  | .feed chunk => [.bytes chunk]
  | .pairStart ident pin => [.bytes ident, .bytes pin]
  | .pairWriteDone ok => [ofFlag ok]
  | .pairSettleDone => []
  | .pairPollTick => []
  | .pairRx data => [.bytes data]
  | .pairCancel => []
  | .pairStatus => []
  | .connReset => []

/-- One operand as serialised bytes (R102), for a value of the type. The spec does not say what a writer does with a string
over 65535 bytes: here the prefix is its length modulo 65536 and all its bytes follow (entry 25, DESIGN CHOICE). A number out
of range and an operand of the wrong kind are entry 23. -/
def writeOperand : OperandType → Operand → Bytes
  | .u16, .nat v => [lo8 (BitVec.ofNat 16 v), hi8 (BitVec.ofNat 16 v)]
  | .u1, .nat v => [BitVec.ofNat 8 v]
  | .u3, .nat v => [BitVec.ofNat 8 v]
  | .u8, .nat v => [BitVec.ofNat 8 v]
  | .bytes, .bytes b => lo8 (BitVec.ofNat 16 b.length) :: hi8 (BitVec.ofNat 16 b.length) :: b
  | _, _ => []

/-- Operands as serialised bytes, each by its type (R102). -/
def writeOperands : List OperandType → List Operand → Bytes
  | t :: ts, v :: vs => writeOperand t v ++ writeOperands ts vs
  | _, _ => []

/-- A command given as a tuple, serialised (R102). -/
def writeTuple (op : Opcode) (args : List Operand) : Bytes := op.byte :: writeOperands op.shape args

/-- The serialised bytes of a well-formed command: the opcode byte, then each operand (R102). -/
def encode (i : Instr) : Bytes := writeTuple i.opcode i.operands

/-- How many bytes a serialised operand takes, where bytes past the stream's end read 0 (R102). -/
def operandExtent : OperandType → Bytes → Nat
  | .u16, _ => 2
  | .bytes, bs => 2 + (le16 (bs.getD 0 0) (bs.getD 1 0)).toNat
  | .u1, _ => 1
  | .u3, _ => 1
  | .u8, _ => 1

/-- How many bytes the operands of a shape take. -/
def operandsExtent : List OperandType → Bytes → Nat
  | [], _ => 0
  | t :: ts, bs => operandExtent t bs + operandsExtent ts (bs.drop (operandExtent t bs))

/-- A command's length, known from its opcode and the length prefixes of its `bytes` operands (R102). -/
def commandLength : Bytes → Nat
  | [] => 0
  | opcode :: rest =>
    match Opcode.ofByte opcode with
    | none => 1
    | some op => 1 + operandsExtent op.shape rest

/-- The bytes of an instruction given as the opcode table numbers its bits, every bit above `nbits` 0. -/
def tableBytes (nbits w : Nat) : Bytes :=
  let given := leBytes ((nbits + 7) / 8) w
  (given ++ List.replicate (commandLength given - given.length) 0).take (commandLength given)

/-- The instruction the decoder reads from an opcode-table word. -/
def decodeTableWord (nbits w : Nat) : Option Instr :=
  match decode (tableBytes nbits w) with
  | some (.instr i, _) => some i
  | _ => none

end Sys2Proof
end

