-- ==== Sys2Proof/Machine/Fetch.lean ====
section
/-! DEFINITION. Taking a command from the port, and rejecting one before its own rule (30_encoding.md R91; 60_exceptions.md
R251). -/

namespace Sys2Proof.Machine

/-- The command at the head of the port and the state that has taken its bytes; none while the port is empty. -/
def State.fetch (s : State) : Option (Command × State) :=
  match decode s.port with
  | none => none
  | some (c, rest) => some (c, s.setPort rest)

/-- `ERR_ILLEGAL(opcode)` (R90). -/
def State.rejectIllegal (s : State) (opcode : Byte) : State := s.raise (.errIllegal opcode)

/-- `ERR_OPERAND(index)` (R89). -/
def State.rejectOperand (s : State) (index : Nat) : State := s.raise (.errOperand index)

/-- Command bytes put before all others on the port. -/
def State.deliverBytes (s : State) (b : Bytes) : State := s.setPort (b ++ s.port)

end Sys2Proof.Machine
end

