-- ==== Sys2Proof/Machine/Step.lean ====
section
/-! DEFINITION. One step: the block takes one command from its port and processes it to completion (20_memory.md R60). -/

namespace Sys2Proof.Machine

/-- A command processed in the order of R91: illegal opcode, malformed operands, the command's own rule. -/
def perform (c : Command) (s : State) : Host.Outcome State Fault Refusal :=
  match c with
  | .instr i => exec i s
  | .illegal opcode => .next (s.rejectIllegal opcode)
  | .malformed index => .next (s.rejectOperand index)

/-- One step. With no command on the port the block is idle and holds its state (60_exceptions.md R265; entry 3). -/
def step (s : State) : Host.Outcome State Fault Refusal :=
  match s.fetch with
  | none => .next s
  | some (c, t) => perform c t

/-- The state in which the opcode-table word is the next command on the port. -/
def State.withFetchWord (s : State) (nbits w : Nat) : State := s.deliverBytes (tableBytes nbits w)

end Sys2Proof.Machine
end

