-- ==== Sys2Proof/Machine/Assembler.lean ====
section
/-! DEFINITION. The assembler syntax (30_encoding.md R92) and the three pseudo-instructions an assembler expands before the
block sees them (R93). Nothing of this is in the block: it is how a command's tuple is written. Points of the text that
R92 leaves open are entry 21. -/

namespace Sys2Proof.Machine

/-- A command's mnemonic (R88). -/
def mnemonic : Opcode → String
  | .crc => "CRC"
  | .crc8 => "CRC8"
  | .crc16 => "CRC16"
  | .seqReset => "SEQ_RESET"
  | .seqPeek => "SEQ_PEEK"
  | .encode => "ENCODE"
  | .decode => "DECODE"
  | .setStrict => "SET_STRICT"
  | .feed => "FEED"
  | .pairStart => "PAIR_START"
  | .pairWriteDone => "PAIR_WRITE_DONE"
  | .pairSettleDone => "PAIR_SETTLE_DONE"
  | .pairPollTick => "PAIR_POLL_TICK"
  | .pairRx => "PAIR_RX"
  | .pairCancel => "PAIR_CANCEL"
  | .pairStatus => "PAIR_STATUS"
  | .connReset => "CONN_RESET"

/-- The opcodes of R88, in its order. -/
def allOpcodes : List Opcode :=
  [.crc, .crc8, .crc16, .seqReset, .seqPeek, .encode, .decode, .setStrict, .feed, .pairStart, .pairWriteDone,
    .pairSettleDone, .pairPollTick, .pairRx, .pairCancel, .pairStatus, .connReset]

/-- A command as an assembler hands it to the port: an opcode and an operand tuple (R86). -/
abbrev Tuple := Opcode × List Operand

/-- A line up to its comment: a semicolon outside double quotes starts one (R92). -/
def dropComment (quoted : Bool) : List Char → List Char
  | [] => []
  | c :: cs => if c = ';' ∧ quoted = false then [] else c :: dropComment (if c = '"' then !quoted else quoted) cs

/-- The text without blanks at its two ends. -/
def trim (cs : List Char) : List Char := ((cs.dropWhile (· = ' ')).reverse.dropWhile (· = ' ')).reverse

/-- The text cut at every `sep` outside double quotes. -/
def cutAt (sep : Char) (quoted : Bool) : List Char → List (List Char)
  | [] => [[]]
  | c :: cs =>
    if c = sep ∧ quoted = false then [] :: cutAt sep quoted cs
    else match cutAt sep (if c = '"' then !quoted else quoted) cs with
      | [] => [[c]]
      | w :: ws => (c :: w) :: ws

/-- All the values, or none where one is missing. -/
def allSome {α : Type} : List (Option α) → Option (List α)
  | [] => some []
  | none :: _ => none
  | some a :: rest =>
    match allSome rest with
    | none => none
    | some as => some (a :: as)

/-- The value of a digit in a base up to 16. -/
def digitValue (base : Nat) (c : Char) : Option Nat :=
  let v := if '0'.toNat ≤ c.toNat ∧ c.toNat ≤ '9'.toNat then c.toNat - '0'.toNat
    else if 'A'.toNat ≤ c.toNat ∧ c.toNat ≤ 'F'.toNat then c.toNat - 'A'.toNat + 10
    else if 'a'.toNat ≤ c.toNat ∧ c.toNat ≤ 'f'.toNat then c.toNat - 'a'.toNat + 10
    else 16
  if v < base then some v else none

/-- The number a string of digits stands for. -/
def numberIn (base : Nat) (cs : List Char) : Option Nat :=
  match cs, allSome (cs.map (digitValue base)) with
  | [], _ => none
  | _ :: _, none => none
  | _ :: _, some ds => some (ds.foldl (fun n d => n * base + d) 0)

/-- An integer: hex with `0x`, or decimal (R92). -/
def readInteger : List Char → Option Operand
  | '0' :: 'x' :: cs => (numberIn 16 cs).map Operand.nat
  | cs => (numberIn 10 cs).map Operand.nat

/-- A byte of a bracketed string: two hex digits (R92). -/
def readHexByte : List Char → Option Byte
  | [a, b] => (numberIn 16 [a, b]).map (BitVec.ofNat 8)
  | _ => none

/-- A character of a quoted string: its ASCII code (R92). -/
def readAscii (c : Char) : Option Byte := if c.toNat < 128 ∧ c ≠ '"' then some (BitVec.ofNat 8 c.toNat) else none

/-- One operand: a bracketed or a quoted byte string, or an integer (R92). -/
def readText : List Char → Option Operand
  | '[' :: cs =>
    if cs.getLast? = some ']'
    then (allSome (((cutAt ' ' false cs.dropLast).filter (· ≠ [])).map readHexByte)).map Operand.bytes
    else none
  | '"' :: cs => if cs.getLast? = some '"' then (allSome (cs.dropLast.map readAscii)).map Operand.bytes else none
  | cs => readInteger cs

/-- The operands of a line, separated by commas (R92). -/
def readTexts (cs : List Char) : Option (List Operand) :=
  if trim cs = [] then some [] else allSome ((cutAt ',' false cs).map fun t => readText (trim t))

/-- A mnemonic with its operands: a command, or a pseudo-instruction's expansion (R93). R93 does not say what one without
operands expands to: here FEED_ALL then is no command and ENCODE_AT has no expansion (entry 24, DESIGN CHOICE). -/
def expand (name : List Char) (args : List Operand) : Option (List Tuple) :=
  if name = "ENCODE_AT".toList then
    match args with
    | v :: rest => some [(.seqReset, [v]), (.encode, rest)]
    | [] => none
  else if name = "FEED_ALL".toList then some (args.map fun c => (.feed, [c]))
  else if name = "CRC_DUML8".toList then
    some [(.crc, [.nat 8, .nat 0x31, .nat 0xEE, .nat 0x00, .nat 1, .nat 1] ++ args)]
  else if name = "CRC_DUML16".toList then
    some [(.crc, [.nat 16, .nat 0x1021, .nat 0x496C, .nat 0x0000, .nat 1, .nat 1] ++ args)]
  else (allOpcodes.find? fun op => (mnemonic op).toList = name).map fun op => [(op, args)]

/-- The tuples a line stands for; an empty or a comment line stands for none of them (R92, R93). -/
def assemble (line : String) : Option (List Tuple) :=
  let code := trim (dropComment false line.toList)
  if code = [] then some []
  else
    match readTexts (code.dropWhile (· ≠ ' ')) with
    | none => none
    | some args => expand (code.takeWhile (· ≠ ' ')) args

/-- The line's commands, serialised (R102). R92 does not say what an assembler does with an operand that has not its type:
here one out of range is written modulo its width, one of the wrong kind and a surplus one are left out, and a missing one
adds nothing (entry 23, DESIGN CHOICE); a string over 65535 bytes is written whole behind its length modulo 65536 (entry 25,
DESIGN CHOICE). `assemble` keeps each tuple as it was written, and the block answers it. -/
def assembleBytes (line : String) : Option Bytes :=
  (assemble line).map fun ts => (ts.map fun t => writeTuple t.1 t.2).flatten

end Sys2Proof.Machine
end

