-- ==== Sys2Proof/Safety.lean ====
section
/-! DEFINITION. The legal states (10_state.md section 1 and R25, R28 to R31; 42_framer.md R183), runs over a list of
commands, and what claims count in a run. -/

namespace Sys2Proof.Machine

/-- The remainder's shape after a FEED (42_framer.md R183). -/
def remainderShape (acc : Bytes) : Bool :=
  decide (acc.length < 13)
    || (byteAt acc 0 == 0x55 && decide (13 ≤ frameLength acc) && decide (frameLength acc ≤ 1023)
      && decide (acc.length < frameLength acc))

/-- `len(ACC) ≤ P_ACC_CAP` (10_state.md section 1). -/
def withinCap (p : Config.Params) (acc : Bytes) : Bool :=
  match p.accCap with
  | none => true
  | some cap => decide (acc.length ≤ cap)

/-- `PHASE` is legal with `PSTATE` (R28): outside `TriggerSent` it is `None`. -/
def phaseLegal (s : State) : Bool := s.phase == .none || s.pstate == .triggerSent

/-- `POLLS` is legal with `PSTATE` (R29; the bounded wait of R225): below 30 while waiting, 30 in `TimedOut`. -/
def pollsLegal (s : State) : Bool :=
  decide (s.polls.toNat ≤ 30) && (!isWaiting s.pstate || decide (s.polls.toNat < 30))
    && (!(s.pstate == .timedOut) || s.polls.toNat == 30)

/-- `PAIRED = 1` if and only if `PSTATE = Paired` (R30). -/
def pairedLegal (s : State) : Bool := s.paired == (s.pstate == .paired)

/-- `ID` and `PIN` have length 0 to 255 (R31). -/
def stringsLegal (s : State) : Bool := decide (s.ident.length ≤ 255) && decide (s.pin.length ≤ 255)

/-- A legal state: every legal-value rule of 10_state.md. -/
def State.legal (s : State) : Bool :=
  remainderShape s.acc && withinCap Config.params s.acc && phaseLegal s && pollsLegal s && pairedLegal s && stringsLegal s

/-- The outputs of a list of commands processed in order, and the state after them (20_memory.md R60); none if one stops. -/
def runCommands : List Instr → State → Option (List Output × State)
  | [], s => some ([], s)
  | i :: is, s =>
    match exec i s with
    | .next t =>
      match runCommands is t with
      | none => none
      | some (outs, u) => some (t.out :: outs, u)
    | .fault _ => none
    | .refused _ => none

/-- The events of a list of outputs, in order. -/
def eventsOf (outs : List Output) : List Event := (outs.map Output.events).flatten

/-- The frames an event list surfaces, in order (30_encoding.md R95). -/
def framesOf (events : List Event) : List FrameRecord :=
  events.filterMap fun
    | .frameOut f => some f
    | .checksumMismatch _ _ => none
    | .outcome _ => none

/-- The pairing outcomes of an event list, in order (43_pairing.md R202). -/
def outcomesOf (events : List Event) : List PairOutcome :=
  events.filterMap fun
    | .frameOut _ => none
    | .checksumMismatch _ _ => none
    | .outcome o => some o

/-- The state whose port carries exactly this response, these events and these requests. -/
def State.outputs (s : State) (r : Response) (events : List Event) (requests : List TxReq) : State :=
  { s with out := { response := some r, events := events, requests := requests } }

/-- The 10-bit length of a header's bytes 1 and 2 as arithmetic: `F[1] | (F[2][1:0] << 8)` (30_encoding.md R73). -/
def headerLength (f : Bytes) : Nat := (byteAt f 1).toNat + 256 * ((byteAt f 2).toNat % 4)

/-- The byte string starts with the magic byte and is as long as its header says, 13 to 1023 bytes: what the framer
slices as one candidate (42_framer.md R177). -/
def isCandidate (f : Bytes) : Bool :=
  byteAt f 0 == 0x55 && decide (13 ≤ f.length) && headerLength f == f.length

/-- The layout table of a frame (30_encoding.md R71), byte by byte, for given field values. -/
structure FrameLayout (f : Bytes) (target seq : Half) (flags commandSet commandId : Byte) (payload : Bytes) : Prop where
  lengthIs : f.length = 13 + payload.length
  magic : byteAt f 0 = 0x55
  lengthLow : (byteAt f 1).toNat = f.length % 256
  lengthHighVersion : (byteAt f 2).toNat = 4 * 1 + f.length / 256
  headerChecksum : byteAt f 3 = crc8 (f.take 3)
  sender : (byteAt f 4).toNat = target.toNat % 256
  receiver : (byteAt f 5).toNat = target.toNat / 256
  sequenceHigh : (byteAt f 6).toNat = seq.toNat / 256
  sequenceLow : (byteAt f 7).toNat = seq.toNat % 256
  flagsIs : byteAt f 8 = flags
  commandSetIs : byteAt f 9 = commandSet
  commandIdIs : byteAt f 10 = commandId
  payloadIs : (f.drop 11).take payload.length = payload
  trailerLow : (byteAt f (11 + payload.length)).toNat = (crc16 (f.take (11 + payload.length))).toNat % 256
  trailerHigh : (byteAt f (12 + payload.length)).toNat = (crc16 (f.take (11 + payload.length))).toNat / 256

/-- The record table of a frame (41_codec.md R139), field by field. -/
structure RecordOf (r : FrameRecord) (f : Bytes) : Prop where
  magic : r.magic = byteAt f 0
  length : r.length.toNat = headerLength f
  version : r.version.toNat = (byteAt f 2).toNat / 4
  headerChecksum : r.headerChecksum = byteAt f 3
  sender : r.sender = byteAt f 4
  receiver : r.receiver = byteAt f 5
  target : r.target.toNat = (byteAt f 4).toNat + 256 * (byteAt f 5).toNat
  sequenceId : r.sequenceId.toNat = 256 * (byteAt f 6).toNat + (byteAt f 7).toNat
  flags : r.flags = byteAt f 8
  commandSet : r.commandSet = byteAt f 9
  commandId : r.commandId = byteAt f 10
  payload : r.payload = (f.take (f.length - 2)).drop 11
  trailingChecksum : r.trailingChecksum.toNat
    = (byteAt f (f.length - 2)).toNat + 256 * (byteAt f (f.length - 1)).toNat
  raw : r.raw = f

/-- The two bits of a strict decode's report on a frame of `L` bytes, as a number (41_codec.md R141). -/
def reportOf (f : Bytes) : Nat :=
  (if byteAt f 3 = crc8 (f.take 3) then 0 else 1)
    + (if (byteAt f (f.length - 2)).toNat + 256 * (byteAt f (f.length - 1)).toNat
        = (crc16 (f.take (f.length - 2))).toNat then 0 else 2)

/-- A finite `P_ACC_CAP` that the chunk would exceed (42_framer.md R171). -/
def ExceedsCap (acc chunk : Bytes) : Prop :=
  ∃ cap, Config.params.accCap = some cap ∧ cap < acc.length + chunk.length

/-- The raw bytes of the candidates an event list surfaces, as `FrameOut` or as `ChecksumMismatch`, in order. -/
def rawsOf (events : List Event) : List Bytes :=
  events.filterMap fun
    | .frameOut f => some f.raw
    | .checksumMismatch raw _ => some raw
    | .outcome _ => none

/-- The bytes FEED may discard in front of `rest`, what it still holds after them (42_framer.md R182): by steps a and b a
byte that is not the magic byte (R173), by step d a magic byte whose length field is below 13 (R175), with at least 4 bytes
in hand (R174). `fresh` says that a pass of the loop starts at the first byte; it needs 13 bytes in hand (R172), and step d
ends a pass. -/
def discards (fresh : Bool) : Bytes → Bytes → Bool
  | [], _ => true
  | b :: d, rest =>
    (!fresh || decide (13 ≤ (b :: d ++ rest).length))
      && (if b = 0x55 then
        decide (4 ≤ (b :: d ++ rest).length) && decide (headerLength (b :: d ++ rest) < 13) && discards true d rest
      else discards false d rest)

/-- A pass of FEED's loop starts right after these discarded bytes: there are none, or step d dropped the last of them. -/
def passStarts (dropped : Bytes) : Bool := dropped.getLast?.getD 0x55 == 0x55

/-- What FEED may keep after its last discards, one disjunct for each exit of the loop (42_framer.md R172, R173, R174, R176):
fewer than 13 bytes at a pass's start; nothing, where step a found no magic byte; fewer than 4 bytes from a magic byte that
step b found; an incomplete frame. -/
def keeps (dropped acc : Bytes) : Bool :=
  (passStarts dropped && decide (acc.length < 13))
    || (!passStarts dropped && acc == [])
    || (!passStarts dropped && byteAt acc 0 == 0x55 && decide (acc.length < 4))
    || (byteAt acc 0 == 0x55 && decide (13 ≤ headerLength acc) && decide (acc.length < headerLength acc))

/-- Bytes split as FEED must: pairs of discarded bytes and a candidate, then discarded bytes, then the remainder `acc`. -/
def accounted : List (Bytes × Bytes) → Bytes → Bytes → Bool
  | [], dropped, acc => discards true dropped acc && keeps dropped acc
  | x :: xs, dropped, acc =>
    discards true x.1 (x.2 ++ ((xs.map fun y => y.1 ++ y.2).flatten ++ dropped ++ acc))
      && isCandidate x.2 && accounted xs dropped acc

/-- The event a candidate leaves as (42_framer.md R179). -/
def surfacedAs (strict : Bool) (f : Bytes) : Event :=
  if strict = true ∧ checksumReport f ≠ 0 then .checksumMismatch f (checksumReport f) else .frameOut (fieldsOf f)

/-- The operand at position `k` is a value of the shape's type there (30_encoding.md R89). -/
def operandGood (op : Opcode) (args : List Operand) (k : Nat) : Bool :=
  match op.shape[k]?, args[k]? with
  | some t, some v => t.admits v
  | _, _ => false

/-- The status codes that a command's own rule can end with (60_exceptions.md R250, "ended by"). -/
def ownStatuses : Opcode → List Byte
  | .crc => [0x00, 0x03]
  | .crc8 => [0x00]
  | .crc16 => [0x00]
  | .seqReset => [0x00]
  | .seqPeek => [0x00]
  | .encode => [0x00, 0x04]
  | .decode => [0x00, 0x10, 0x11, 0x12, 0x13, 0x14]
  | .setStrict => [0x00]
  | .feed => [0x00, 0x20]
  | .pairStart => [0x00, 0x04, 0x30]
  | .pairWriteDone => [0x00, 0x30, 0x31]
  | .pairSettleDone => [0x00, 0x30]
  | .pairPollTick => [0x00]
  | .pairRx => [0x00, 0x10, 0x11, 0x12, 0x13, 0x14]
  | .pairCancel => [0x00, 0x30]
  | .pairStatus => [0x00]
  | .connReset => [0x00]

/-- The commands whose row of 10_state.md section 1 lets them write the pairing session. -/
def writesSession : Opcode → Bool
  | .pairStart | .pairWriteDone | .pairSettleDone | .pairPollTick | .pairRx | .pairCancel | .feed | .connReset => true
  | _ => false

/-- The state whose entry an outcome reports (43_pairing.md R202). -/
def enteredState : PairOutcome → PState
  | .paired => .paired
  | .pairingRequired => .awaitingApproval
  | .pairingTimeout => .timedOut
  | .pairingAborted _ => .aborted

/-- The opcode bytes of R88. -/
def assignedBytes : List Byte :=
  [0x01, 0x02, 0x03, 0x10, 0x11, 0x12, 0x13, 0x14, 0x20, 0x30, 0x31, 0x32, 0x33, 0x34, 0x35, 0x36, 0xF0]

/-- How many of the commands are poll ticks. -/
def pollTicks (is : List Instr) : Nat := is.count .pairPollTick

end Sys2Proof.Machine
end

