-- ==== Sys2Proof/Certificates/Slice0/Obligations.lean ====
section
/-! DEFINITION. The statements for the provers. -/

open Sys2Proof Sys2Proof.Machine

/-! The command port -/

/-- Serialised commands of R102's example and of the programs of 95_test_vectors.md decode to the commands they stand for. -/
def Obligations.ListedWordsDecode : Prop :=
  decode [0x12, 0x02, 0x04, 0x40, 0x04, 0x05, 0x00, 0x00] = some (.instr (.encode 0x0402 0x40 0x04 0x05 []), [])
    ∧ decode [0x10, 0x00, 0x01] = some (.instr (.seqReset 0x0100), [])
    ∧ decode [0x14, 0x01] = some (.instr (.setStrict true), [])
    ∧ decode [0x20, 0x04, 0x00, 0x00, 0x00, 0x00, 0x00] = some (.instr (.feed [0, 0, 0, 0]), [])
    ∧ decode [0x30, 0x03, 0x00, 0x41, 0x42, 0x43, 0x04, 0x00, 0x31, 0x32, 0x33, 0x34]
        = some (.instr (.pairStart [0x41, 0x42, 0x43] [0x31, 0x32, 0x33, 0x34]), [])
    ∧ decode [0x01, 0x0C, 0x21, 0x10, 0xFF, 0xFF, 0x00, 0x00, 0x00, 0x00, 0x00, 0x00]
        = some (.instr (.crc 12 0x1021 0xFFFF 0x0000 false false []), [])
    ∧ decode [0x31, 0x00, 0xF0] = some (.instr (.pairWriteDone false), [0xF0])
    ∧ decode [0xF0] = some (.instr .connReset, [])
    ∧ decode [0x04] = some (.illegal 0x04, [])

/-- Decoding the bytes of a well-formed command gives the command back and leaves what follows it (R102). -/
def Obligations.DecodeOfEncode : Prop :=
  ∀ (i : Instr) (rest : Bytes), i.wf = true → Sys2Proof.decode (Sys2Proof.encode i ++ rest) = some (.instr i, rest)

/-- What decodes to a command is that command's bytes and what follows them, and the command is well-formed (R102, R103). -/
def Obligations.EncodeOfDecode : Prop :=
  ∀ (bs : Bytes) (i : Instr) (rest : Bytes),
    Sys2Proof.decode bs = some (.instr i, rest) → i.wf = true ∧ bs = Sys2Proof.encode i ++ rest

/-- R90: an opcode byte not in R88 ends with ERR_ILLEGAL, whatever its operands, and does nothing else. -/
def Obligations.IllegalOpcodeChangesNothing : Prop :=
  ∀ (b : Byte) (args : List Operand) (s : State), b ∉ assignedBytes →
    perform (ofTuple b args) s = .next (s.outputs (.errIllegal b) [] [])

/-- The same on the byte stream. That one byte is taken is the model's choice (entry 4). -/
def Obligations.IllegalOpcodeTakesOneByte : Prop :=
  ∀ (s : State) (b : Byte) (rest : Bytes), s.port = b :: rest → b ∉ assignedBytes →
    step s = .next ({ s with port := rest }.outputs (.errIllegal b) [] [])

/-- R89: an operand tuple that has not the opcode's shape ends with ERR_OPERAND at the first bad operand and does nothing
else; one that has it is performed as the command with that opcode and those operands. The index of a missing or surplus
operand is the model's reading (entry 6). -/
def Obligations.OperandCheckNamesFirstBad : Prop :=
  ∀ (op : Opcode) (args : List Operand) (s : State),
    (∀ k, (∀ j < k, operandGood op args j = true) → operandGood op args k = false →
        (k < op.shape.length ∨ k < args.length) →
        perform (ofTuple op.byte args) s = .next (s.outputs (.errOperand k) [] []))
      ∧ (args.length = op.shape.length → (∀ j < op.shape.length, operandGood op args j = true) →
        ∃ i : Instr, i.opcode = op ∧ i.operands = args ∧ perform (ofTuple op.byte args) s = exec i s)

/-- A stream that ends inside a command gives ERR_OPERAND for that command (R102). That what the port holds at the step is
a stream that has ended, so that the block answers at once and does not wait for more bytes, is the model's choice (entry 7,
DESIGN CHOICE, unsafe). That all of the stream is taken and which index is reported are the model's (entries 5 and 6). -/
def Obligations.TruncatedStreamIsOperandError : Prop :=
  ∀ (i : Instr) (s : State) (b c : Bytes), i.wf = true → Sys2Proof.encode i = b ++ c → b ≠ [] → c ≠ [] → s.port = b →
    ∃ k, step s = .next ({ s with port := [] }.outputs (.errOperand k) [] [])

/-- R102, R89: a command whose bytes are all on the port but whose u1 byte is neither 00 nor 01 ends with ERR_OPERAND at
that operand's index and does nothing else. That exactly the command's bytes are taken is the model's reading (entry 5). -/
def Obligations.FlagByteOutOfRangeIsOperandError : Prop :=
  ∀ (s : State) (rest : Bytes),
    (∀ b : Byte, 2 ≤ b.toNat → s.port = 0x14 :: b :: rest →
        step s = .next ({ s with port := rest }.outputs (.errOperand 0) [] []))
      ∧ (∀ b : Byte, 2 ≤ b.toNat → s.port = 0x31 :: b :: rest →
        step s = .next ({ s with port := rest }.outputs (.errOperand 0) [] []))
      ∧ (∀ (width p0 p1 i0 i1 x0 x1 refIn refOut n0 n1 : Byte) (data : Bytes),
        data.length = n0.toNat + 256 * n1.toNat →
        s.port = [0x01, width, p0, p1, i0, i1, x0, x1, refIn, refOut, n0, n1] ++ data ++ rest →
          (2 ≤ refIn.toNat → step s = .next ({ s with port := rest }.outputs (.errOperand 4) [] []))
            ∧ (refIn.toNat < 2 → 2 ≤ refOut.toNat →
              step s = .next ({ s with port := rest }.outputs (.errOperand 5) [] [])))

/-- A step runs the decoded command, on the state that has taken the command's bytes from the port. -/
def Obligations.StepRunsDecodedCommand : Prop :=
  ∀ (s : State) (i : Instr) (rest : Bytes),
    Sys2Proof.decode s.port = some (.instr i, rest) → step s = exec i { s with port := rest }

/-- A well-formed command at the head of the port is run by the next step, and the port is left at what follows it. That
the bytes behind a command wait on the port is the model's (entry 1); that they wait behind a CONN_RESET too is the model's
reading (entry 22). -/
def Obligations.StepRunsEncodedCommand : Prop :=
  ∀ (s : State) (i : Instr) (rest : Bytes), i.wf = true → s.port = Sys2Proof.encode i ++ rest →
    step s = exec i { s with port := rest } ∧ ∃ t, step s = .next t ∧ t.port = rest

/-- R265: with no command on the port the block holds its state. -/
def Obligations.IdleHoldsState : Prop :=
  ∀ s : State, s.port = [] → step s = .next s

/-! Statuses -/

/-- Every command ends with exactly one status, and with one that R250 lists for it. -/
def Obligations.EveryCommandEndsWithOneStatus : Prop :=
  ∀ (i : Instr) (s : State), ∃ t r,
    exec i s = .next t ∧ t.out.response = some r ∧ statusCode r ∈ ownStatuses i.opcode

/-- R252: an error has no effect; the one exception is ERR_TRANSPORT, which keeps the effects of R208. -/
def Obligations.ErrorsHaveNoEffect : Prop :=
  ∀ (i : Instr) (s t : State) (r : Response), exec i s = .next t → t.out.response = some r →
    (∀ v, r ≠ .ok v) →
      ((∀ ph, r ≠ .errTransport ph) → t = s.outputs r [] [])
        ∧ (∀ ph, r = .errTransport ph → i = .pairWriteDone false
          ∧ t = { s with pstate := .aborted, phase := .none }.outputs r [.outcome (.pairingAborted .transport)] [])

/-- R255: the next command does not see what the command before it put out. -/
def Obligations.OutputsAreNotSeen : Prop :=
  ∀ (i : Instr) (s : State) (o : Output), exec i { s with out := o } = exec i s

/-- The "written by" column of 10_state.md section 1: every other command leaves the register as it was. That no command,
CONN_RESET among them, touches the bytes still on the port is the model's (entries 1 and 22; R65 says that no write of the
block changes a later command). -/
def Obligations.OnlyListedCommandsWrite : Prop :=
  ∀ (i : Instr) (s t : State), exec i s = .next t →
    t.port = s.port
      ∧ (i.opcode ∉ [.seqReset, .encode, .pairSettleDone, .connReset] → t.seq = s.seq)
      ∧ (i.opcode ≠ .setStrict → t.strict = s.strict)
      ∧ (i.opcode ∉ [.feed, .connReset] → t.acc = s.acc)
      ∧ (writesSession i.opcode = false → t.pstate = s.pstate)
      ∧ (writesSession i.opcode = false ∨ i.opcode = .feed → t.phase = s.phase)
      ∧ (i.opcode ∉ [.pairWriteDone, .pairPollTick, .connReset] → t.polls = s.polls)
      ∧ (i.opcode ∉ [.pairRx, .feed, .connReset] → t.paired = s.paired)
      ∧ (i.opcode ∉ [.pairStart, .connReset] → t.ident = s.ident ∧ t.pin = s.pin)

/-! Checksum family -/

/-- R113, R114: CRC on every accepted operand tuple gives the CRC of R111 and changes no register. -/
def Obligations.CrcCompletes : Prop :=
  (∀ (poly init xorOut : BitVec 16) (refIn refOut : Bool) (data : Bytes) (s : State),
      exec (.crc 16 poly init xorOut refIn refOut data) s
        = .next (s.outputs (.ok (.u16 (crc poly init xorOut refIn refOut data))) [] []))
    ∧ (∀ (poly init xorOut : BitVec 8) (refIn refOut : Bool) (data : Bytes) (s : State),
      exec (.crc 8 (poly.setWidth 16) (init.setWidth 16) (xorOut.setWidth 16) refIn refOut data) s
        = .next (s.outputs (.ok (.u16 ((crc poly init xorOut refIn refOut data).setWidth 16))) [] []))

/-- R113: the parameter checks, in the order width, poly, init, xorOut. -/
def Obligations.CrcParameterErrors : Prop :=
  ∀ (width : Byte) (poly init xorOut : Half) (refIn refOut : Bool) (data : Bytes) (s : State),
    (width ≠ 8 → width ≠ 16 →
        exec (.crc width poly init xorOut refIn refOut data) s = .next (s.outputs (.errParam .width) [] []))
      ∧ (width = 8 → 256 ≤ poly.toNat →
        exec (.crc width poly init xorOut refIn refOut data) s = .next (s.outputs (.errParam .poly) [] []))
      ∧ (width = 8 → poly.toNat < 256 → 256 ≤ init.toNat →
        exec (.crc width poly init xorOut refIn refOut data) s = .next (s.outputs (.errParam .init) [] []))
      ∧ (width = 8 → poly.toNat < 256 → init.toNat < 256 → 256 ≤ xorOut.toNat →
        exec (.crc width poly init xorOut refIn refOut data) s = .next (s.outputs (.errParam .xorOut) [] []))

/-- R112: empty input gives the initial register transformed by the output stage, 0x77 and 0x3692 for the protocol's sets. -/
def Obligations.CrcOfEmptyInput : Prop :=
  (∀ (init poly xorOut : BitVec 8) (refIn refOut : Bool),
      crc poly init xorOut refIn refOut [] = (if refOut then reflect init else init) ^^^ xorOut)
    ∧ (∀ (init poly xorOut : BitVec 16) (refIn refOut : Bool),
      crc poly init xorOut refIn refOut [] = (if refOut then reflect init else init) ^^^ xorOut)
    ∧ (∀ s : State, exec (.crc8 []) s = .next (s.outputs (.ok (.u16 0x0077)) [] []))
    ∧ (∀ s : State, exec (.crc16 []) s = .next (s.outputs (.ok (.u16 0x3692)) [] []))

/-- R118: with both reflections the CRC equals its right-shifting form, for every polynomial, start value and input. -/
def Obligations.CrcEqualsRightShiftingForm : Prop :=
  (∀ (poly init xorOut : BitVec 8) (data : Bytes), crc poly init xorOut true true data = rcrc poly init xorOut data)
    ∧ (∀ (poly init xorOut : BitVec 16) (data : Bytes), crc poly init xorOut true true data = rcrc poly init xorOut data)

/-- R119: the check values of CRC8 and CRC16 over "123456789". -/
def Obligations.CrcCheckValues : Prop :=
  ∀ s : State,
    exec (.crc8 [0x31, 0x32, 0x33, 0x34, 0x35, 0x36, 0x37, 0x38, 0x39]) s = .next (s.outputs (.ok (.u16 0x00FB)) [] [])
      ∧ exec (.crc16 [0x31, 0x32, 0x33, 0x34, 0x35, 0x36, 0x37, 0x38, 0x39]) s
        = .next (s.outputs (.ok (.u16 0x7109)) [] [])

/-- R116, R117: CRC8 and CRC16 give the protocol's checksums, which are those of the generic command on their parameter
sets. -/
def Obligations.FixedCrcCommands : Prop :=
  ∀ (data : Bytes) (s : State),
    exec (.crc8 data) s = .next (s.outputs (.ok (.u16 ((crc (0x31 : BitVec 8) 0xEE 0x00 true true data).setWidth 16))) [] [])
      ∧ exec (.crc8 data) s = exec (.crc 8 0x31 0xEE 0x00 true true data) s
      ∧ exec (.crc16 data) s = .next (s.outputs (.ok (.u16 (crc (0x1021 : BitVec 16) 0x496C 0x0000 true true data))) [] [])
      ∧ exec (.crc16 data) s = exec (.crc 16 0x1021 0x496C 0x0000 true true data) s

/-! Codec and sequence family -/

/-- R130, R131: SEQ_RESET writes SEQ and nothing else; SEQ_PEEK returns it and changes nothing. -/
def Obligations.SequenceRegisterPorts : Prop :=
  ∀ (value : Half) (s : State),
    exec (.seqReset value) s = .next ({ s with seq := value }.outputs (.ok .none) [] [])
      ∧ exec .seqPeek s = .next (s.outputs (.ok (.u16 s.seq)) [] [])

/-- R145: SET_STRICT writes STRICT and nothing else, and its value governs every later DECODE, PAIR_RX and FEED: whatever
commands but SET_STRICT come between, a frame with a wrong checksum is reported by each of the three if the value is 1, and
accepted by each if it is 0. -/
def Obligations.SetStrictGovernsDecode : Prop :=
  ∀ (value : Bool) (s : State), ∃ t,
    exec (.setStrict value) s = .next t ∧ t = { s with strict := value }.outputs (.ok .none) [] []
      ∧ ∀ cmds : List Instr, (∀ v, .setStrict v ∉ cmds) → ∃ outs u, runCommands cmds t = some (outs, u)
        ∧ u.strict = value
        ∧ ∀ f : Bytes, isCandidate f = true → reportOf f ≠ 0 →
          (value = true → ∃ which : BitVec 2, which.toNat = reportOf f
              ∧ exec (.decode f) u = .next (u.outputs (.decChecksum which) [] [])
              ∧ exec (.pairRx f) u = .next (u.outputs (.decChecksum which) [] [])
              ∧ ∃ w, exec (.feed f) u = .next w ∧ (u.acc = [] → ¬ ExceedsCap [] f →
                w = u.outputs (.ok (.bytes [])) [.checksumMismatch f which] []))
            ∧ (value = false → ∃ r, RecordOf r f
              ∧ exec (.decode f) u = .next (u.outputs (.ok (.frame r)) [] [])
              ∧ (∃ w, exec (.pairRx f) u = .next w ∧ w.out.response = some (.ok .none))
              ∧ ∃ w, exec (.feed f) u = .next w ∧ (u.acc = [] → ¬ ExceedsCap [] f →
                ∃ es, w.out.events = .frameOut r :: es ∧ rawsOf es = []))

/-- R133, R136: ENCODE returns the frame of the layout table with the value SEQ held, and increments SEQ; a payload longer
than 1010 bytes it refuses with the payload's length, and SEQ is not touched. -/
def Obligations.EncodeBuildsTheFrame : Prop :=
  ∀ (target : Half) (flags commandSet commandId : Byte) (payload : Bytes) (s : State),
    (payload.length ≤ 1010 →
      ∃ f, FrameLayout f target s.seq flags commandSet commandId payload
        ∧ exec (.encode target flags commandSet commandId payload) s
          = .next ({ s with seq := s.seq + 1 }.outputs (.ok (.bytes f)) [] []))
      ∧ (1010 < payload.length → ∃ field,
        exec (.encode target flags commandSet commandId payload) s
          = .next (s.outputs (.errLength field payload.length) [] []))

/-- The error of an ENCODE whose payload is too long. That its field is named `payload` is the model's reading
(entry 10). -/
def Obligations.EncodeRefusesLongPayload : Prop :=
  ∀ (target : Half) (flags commandSet commandId : Byte) (payload : Bytes) (s : State), 1010 < payload.length →
    exec (.encode target flags commandSet commandId payload) s
      = .next (s.outputs (.errLength .payload payload.length) [] [])

/-- R83, R135: what ENCODE returns is a valid frame whose length field equals its byte count. -/
def Obligations.EncodedFrameIsValid : Prop :=
  ∀ (target : Half) (flags commandSet commandId : Byte) (payload : Bytes) (s : State), payload.length ≤ 1010 →
    ∃ t f, exec (.encode target flags commandSet commandId payload) s = .next t
      ∧ t.out.response = some (.ok (.bytes f)) ∧ validFrame f = true ∧ headerLength f = f.length
      ∧ f.length = 13 + payload.length

/-- R137: DECODE of ENCODE's output, in either mode, reproduces every field, and the sequence number SEQ held before. -/
def Obligations.DecodeOfEncodedFrame : Prop :=
  ∀ (target : Half) (flags commandSet commandId : Byte) (payload : Bytes) (s : State) (mode : Bool),
    payload.length ≤ 1010 →
    ∃ t f u r, exec (.encode target flags commandSet commandId payload) s = .next t
      ∧ t.out.response = some (.ok (.bytes f))
      ∧ exec (.decode f) { t with strict := mode } = .next u
      ∧ u.out.response = some (.ok (.frame r))
      ∧ r.target = target ∧ r.flags = flags ∧ r.commandSet = commandSet ∧ r.commandId = commandId
      ∧ r.payload = payload ∧ r.sequenceId = s.seq
      ∧ r.magic = 0x55 ∧ r.version = 1 ∧ r.length.toNat = 13 + payload.length ∧ r.raw = f

/-- R135: successive ENCODEs carry successive sequence numbers modulo 65536. -/
def Obligations.EncodesNumberSuccessively : Prop :=
  ∀ (jobs : List (Half × Byte × Byte × Byte × Bytes)) (s : State), (∀ j ∈ jobs, j.2.2.2.2.length ≤ 1010) →
    ∃ outs t, runCommands (jobs.map fun j => .encode j.1 j.2.1 j.2.2.1 j.2.2.2.1 j.2.2.2.2) s = some (outs, t)
      ∧ t.seq = s.seq + BitVec.ofNat 16 jobs.length
      ∧ ∀ k j, jobs[k]? = some j → ∃ o f, outs[k]? = some o ∧ o.response = some (.ok (.bytes f))
        ∧ FrameLayout f j.1 (s.seq + BitVec.ofNat 16 k) j.2.1 j.2.2.1 j.2.2.2.1 j.2.2.2.2

/-- R138: DECODE's four errors, in the order they are checked. -/
def Obligations.DecodeErrorsInOrder : Prop :=
  ∀ (d : Bytes) (s : State),
    (d.length < 13 → exec (.decode d) s = .next (s.outputs (.decShort d.length) [] []))
      ∧ (13 ≤ d.length → byteAt d 0 ≠ 0x55 → exec (.decode d) s = .next (s.outputs (.decMagic (byteAt d 0)) [] []))
      ∧ (13 ≤ d.length → byteAt d 0 = 0x55 → headerLength d < 13 →
        exec (.decode d) s = .next (s.outputs (.decLength (headerLength d)) [] []))
      ∧ (13 ≤ d.length → byteAt d 0 = 0x55 → 13 ≤ headerLength d → d.length < headerLength d →
        exec (.decode d) s = .next (s.outputs (.decIncomplete d.length (headerLength d)) [] []))

/-- R139, R142: DECODE of input that holds a frame returns the record of its first `L` bytes and changes nothing; in strict
mode, where its checksums are right. -/
def Obligations.DecodeReturnsTheRecord : Prop :=
  ∀ (d : Bytes) (s : State), 13 ≤ d.length → byteAt d 0 = 0x55 → 13 ≤ headerLength d → headerLength d ≤ d.length →
    (s.strict = false ∨ reportOf (d.take (headerLength d)) = 0) →
    ∃ r, RecordOf r (d.take (headerLength d)) ∧ exec (.decode d) s = .next (s.outputs (.ok (.frame r)) [] [])

/-- R141: in strict mode DECODE reports both checksums, bit 0 the CRC-8 and bit 1 the CRC-16; in permissive mode the same
bytes decode to their record. -/
def Obligations.StrictDecodeReportsChecksums : Prop :=
  ∀ (d : Bytes) (s : State), 13 ≤ d.length → byteAt d 0 = 0x55 → 13 ≤ headerLength d → headerLength d ≤ d.length →
    s.strict = true → reportOf (d.take (headerLength d)) ≠ 0 →
    ∃ which : BitVec 2, which.toNat = reportOf (d.take (headerLength d))
      ∧ exec (.decode d) s = .next (s.outputs (.decChecksum which) [] [])
      ∧ ∃ r t, RecordOf r (d.take (headerLength d)) ∧ exec (.decode d) { s with strict := false } = .next t
        ∧ t.out.response = some (.ok (.frame r))

/-- R144: in permissive mode the decode ends OK exactly on input that holds a frame by length and magic. -/
def Obligations.PermissiveDecodeAccepts : Prop :=
  ∀ d : Bytes, (∃ r, decodeCore d false = .ok r)
    ↔ (13 ≤ d.length ∧ byteAt d 0 = 0x55 ∧ 13 ≤ headerLength d ∧ headerLength d ≤ d.length)

/-! Framer family -/

/-- R171, R183: FEED ends with ERR_OVERFLOW and no effect where a finite capacity would be exceeded. Everywhere else it
ends OK, stores and returns a remainder of R183's shape, and touches no register but ACC, PSTATE and PAIRED. -/
def Obligations.FeedCompletes : Prop :=
  ∀ (chunk : Bytes) (s : State), ∃ t, exec (.feed chunk) s = .next t
    ∧ (ExceedsCap s.acc chunk → t = s.outputs (.errOverflow s.acc.length chunk.length) [] [])
    ∧ (¬ ExceedsCap s.acc chunk →
      t.out.response = some (.ok (.bytes t.acc)) ∧ t.out.requests = []
        ∧ (t.acc.length < 13 ∨ (byteAt t.acc 0 = 0x55 ∧ 13 ≤ headerLength t.acc ∧ headerLength t.acc ≤ 1023
          ∧ t.acc.length < headerLength t.acc))
        ∧ t = { s with acc := t.acc, pstate := t.pstate, paired := t.paired, out := t.out })

/-- R172 to R179, R181, R182, with whatever is in ACC: what FEED takes in is, in order, discarded bytes and candidates, then
the new remainder. Only what steps a, b and d drop is discarded, and only what an exit of the loop leaves is kept. Each
candidate leaves as its own event, none twice, a FrameOut with its record or in strict mode a ChecksumMismatch with its
report, and acts on the pairing session as a PAIR_RX of it does, before the next is extracted. -/
def Obligations.FeedAccountsForEveryByte : Prop :=
  ∀ (chunk : Bytes) (s : State), ∃ t, exec (.feed chunk) s = .next t
    ∧ (¬ ExceedsCap s.acc chunk →
      ∃ (parts : List (Bytes × Bytes)) (dropped : Bytes) (outs : List Output) (u : State),
        s.acc ++ chunk = (parts.map fun x => x.1 ++ x.2).flatten ++ dropped ++ t.acc
          ∧ accounted parts dropped t.acc = true
          ∧ rawsOf t.out.events = parts.map Prod.snd
          ∧ (∀ x ∈ parts, isCandidate x.2 = true)
          ∧ runCommands (parts.map fun x => .pairRx x.2) s = some (outs, u)
          ∧ t.pstate = u.pstate ∧ t.phase = u.phase ∧ t.polls = u.polls ∧ t.paired = u.paired
          ∧ t.out.events = ((parts.zip outs).map fun x => surfacedAs s.strict x.1.2 :: x.2.events).flatten
          ∧ (∀ r, Event.frameOut r ∈ t.out.events →
            RecordOf r r.raw ∧ (s.strict = false ∨ reportOf r.raw = 0))
          ∧ (∀ raw which, Event.checksumMismatch raw which ∈ t.out.events →
            s.strict = true ∧ which.toNat = reportOf raw ∧ reportOf raw ≠ 0))

/-- R187: with fewer than 13 bytes in hand FEED examines nothing, emits nothing and keeps every byte. -/
def Obligations.FeedKeepsFewBytes : Prop :=
  ∀ (chunk : Bytes) (s : State), (s.acc ++ chunk).length < 13 → ∃ t, exec (.feed chunk) s = .next t
    ∧ (¬ ExceedsCap s.acc chunk →
      t = { s with acc := s.acc ++ chunk }.outputs (.ok (.bytes (s.acc ++ chunk))) [] [])

/-- R173, R181, R185: frames separated by bytes without a magic byte, fed from an empty accumulator in permissive mode, are
surfaced whole and in order, whatever bytes they carry, and leave an empty remainder. -/
def Obligations.FeedResynchronises : Prop :=
  ∀ (parts : List (Bytes × Bytes)) (s : State), s.acc = [] → s.strict = false →
    (∀ x ∈ parts, (0x55 : Byte) ∉ x.1 ∧ isCandidate x.2 = true) →
    ∃ t, exec (.feed (parts.map fun x => x.1 ++ x.2).flatten) s = .next t
      ∧ (¬ ExceedsCap [] (parts.map fun x => x.1 ++ x.2).flatten →
        t.acc = [] ∧ t.out.response = some (.ok (.bytes []))
          ∧ (framesOf t.out.events).map FrameRecord.raw = parts.map Prod.snd)

/-- R176, R187: a frame delivered in two chunks, cut anywhere, is kept by the first FEED and surfaced by the second. -/
def Obligations.FeedReassemblesSplitFrame : Prop :=
  ∀ (f : Bytes) (k : Nat) (s : State), s.acc = [] → s.strict = false → isCandidate f = true → k < f.length →
    ∃ t, exec (.feed (f.take k)) s = .next t
      ∧ (¬ ExceedsCap [] f →
        t = { s with acc := f.take k }.outputs (.ok (.bytes (f.take k))) [] []
          ∧ ∃ u, exec (.feed (f.drop k)) t = .next u ∧ u.acc = []
            ∧ (framesOf u.out.events).map FrameRecord.raw = [f])

/-- R175: a magic byte whose length field is below 13 is spurious: FEED drops that one byte and goes on as on the rest. -/
def Obligations.FeedDropsSpuriousMagic : Prop :=
  ∀ (chunk rest : Bytes) (s : State), s.acc ++ chunk = 0x55 :: rest → 13 ≤ (s.acc ++ chunk).length →
    headerLength (s.acc ++ chunk) < 13 →
    ∃ t, exec (.feed chunk) s = .next t
      ∧ (¬ ExceedsCap s.acc chunk → exec (.feed rest) { s with acc := [] } = .next t)

/-- R184: FEED with an empty chunk right after a FEED that ended OK emits nothing and leaves ACC unchanged. -/
def Obligations.FeedOfNothingChangesNothing : Prop :=
  ∀ (chunk : Bytes) (s : State), ∃ t, exec (.feed chunk) s = .next t
    ∧ (¬ ExceedsCap s.acc chunk → exec (.feed []) t = .next (t.outputs (.ok (.bytes t.acc)) [] []))

/-- R179: a candidate that decodes leaves as one FrameOut, first among its events; in strict mode one whose checksums are
wrong leaves as a ChecksumMismatch with its bytes and report, and the pairing session does not see it. -/
def Obligations.FeedDeliversCandidate : Prop :=
  ∀ (f : Bytes) (s : State), s.acc = [] → isCandidate f = true → ∃ t, exec (.feed f) s = .next t
    ∧ (¬ ExceedsCap [] f →
      t.acc = []
        ∧ (s.strict = false ∨ reportOf f = 0 →
          ∃ r es, RecordOf r f ∧ t.out.events = .frameOut r :: es ∧ rawsOf es = [])
        ∧ (s.strict = true → reportOf f ≠ 0 → ∃ which : BitVec 2, which.toNat = reportOf f
          ∧ t = s.outputs (.ok (.bytes [])) [.checksumMismatch f which] []))

/-- R62, R212, R258: each frame of a FEED reaches the pairing FSM before the next one is extracted, as if PAIR_RX were
given the frames one after the other: the session ends the same, and the events are, frame by frame, the frame's own event
and then the outcomes of its PAIR_RX. -/
def Obligations.FeedAndPairRxAgree : Prop :=
  ∀ (fs : List Bytes) (s : State), s.acc = [] → (∀ f ∈ fs, isCandidate f = true) →
    ∃ t outs u, exec (.feed fs.flatten) s = .next t ∧ runCommands (fs.map .pairRx) s = some (outs, u)
      ∧ (¬ ExceedsCap [] fs.flatten →
        t.acc = [] ∧ t.pstate = u.pstate ∧ t.phase = u.phase ∧ t.polls = u.polls ∧ t.paired = u.paired
          ∧ t.out.events = ((fs.zip outs).map fun x => surfacedAs s.strict x.1 :: x.2.events).flatten
          ∧ outcomesOf t.out.events = outcomesOf (eventsOf outs))

/-! Pairing family -/

/-- R205: PAIR_START in Idle with strings of at most 255 bytes; its errors in the order it checks them. -/
def Obligations.PairStartSendsTrigger : Prop :=
  ∀ (ident pin : Bytes) (s : State),
    (s.pstate = .idle → ident.length ≤ 255 → pin.length ≤ 255 →
        exec (.pairStart ident pin) s
          = .next ({ s with ident := ident, pin := pin, pstate := .triggerSent, phase := .trigWrite }.outputs (.ok .none) []
              [{ channel := .trig, data := [Config.params.trigger.1, Config.params.trigger.2] }]))
      ∧ (s.pstate ≠ .idle → exec (.pairStart ident pin) s = .next (s.outputs (.errState s.pstate s.phase) [] []))
      ∧ (s.pstate = .idle → 255 < ident.length →
        exec (.pairStart ident pin) s = .next (s.outputs (.errLength .ident ident.length) [] []))
      ∧ (s.pstate = .idle → ident.length ≤ 255 → 255 < pin.length →
        exec (.pairStart ident pin) s = .next (s.outputs (.errLength .pin pin.length) [] []))

/-- R207, R208: PAIR_WRITE_DONE in each PHASE. -/
def Obligations.WriteDoneMovesOn : Prop :=
  ∀ s : State,
    (s.phase = .trigWrite →
        exec (.pairWriteDone true) s = .next ({ s with phase := .settle }.outputs (.ok .none) [] []))
      ∧ (s.phase = .credWrite →
        exec (.pairWriteDone true) s
          = .next ({ s with pstate := .credentialsSent, phase := .none, polls := 0 }.outputs (.ok .none) [] []))
      ∧ (s.phase = .trigWrite ∨ s.phase = .credWrite →
        exec (.pairWriteDone false) s
          = .next ({ s with pstate := .aborted, phase := .none }.outputs (.errTransport s.phase)
              [.outcome (.pairingAborted .transport)] []))
      ∧ (s.phase = .none ∨ s.phase = .settle → ∀ ok,
        exec (.pairWriteDone ok) s = .next (s.outputs (.errState s.pstate s.phase) [] []))

/-- R209: PAIR_SETTLE_DONE sends the credential frame with the next sequence number; outside PHASE Settle it is refused. -/
def Obligations.SettleDoneSendsCredentials : Prop :=
  ∀ s : State,
    (s.phase = .settle → s.ident.length ≤ 255 → s.pin.length ≤ 255 →
        ∃ f, FrameLayout f Config.params.pairTarget s.seq 0x40 Config.params.wifiCmdSet Config.params.pinSetCmdId
            (BitVec.ofNat 8 s.ident.length :: s.ident ++ BitVec.ofNat 8 s.pin.length :: s.pin)
          ∧ exec .pairSettleDone s
            = .next ({ s with seq := s.seq + 1, phase := .credWrite }.outputs (.ok .none) [] [{ channel := .cmd, data := f }]))
      ∧ (s.phase ≠ .settle → exec .pairSettleDone s = .next (s.outputs (.errState s.pstate s.phase) [] []))

/-- R225, R227: PAIR_POLL_TICK counts in the two waiting states, times out on the 30th, and does nothing elsewhere. -/
def Obligations.PollTickCounts : Prop :=
  ∀ s : State,
    ((s.pstate = .credentialsSent ∨ s.pstate = .awaitingApproval) → s.polls.toNat < 29 →
        exec .pairPollTick s = .next ({ s with polls := s.polls + 1 }.outputs (.ok .none) [] []))
      ∧ ((s.pstate = .credentialsSent ∨ s.pstate = .awaitingApproval) → s.polls = 29 →
        exec .pairPollTick s
          = .next ({ s with polls := 30, pstate := .timedOut }.outputs (.ok .none) [.outcome .pairingTimeout] []))
      ∧ (s.pstate ≠ .credentialsSent → s.pstate ≠ .awaitingApproval →
        exec .pairPollTick s = .next (s.outputs (.ok .none) [] []))

/-- R214, R216 to R220: a frame in CredentialsSent. Only a PIN-set status response with status byte 0x01 or 0x02 moves the
FSM, to Paired or to AwaitingApproval. -/
def Obligations.StatusResponseMovesFsm : Prop :=
  ∀ (d : Bytes) (s : State) (r : FrameRecord), decodeCore d s.strict = .ok r → s.pstate = .credentialsSent →
    (r.commandSet = Config.params.wifiCmdSet ∧ r.commandId = Config.params.pinSetCmdId ∧ r.flags.getLsbD 7 = true →
        (r.payload[1]?.or r.payload[0]? = some 0x01 →
            exec (.pairRx d) s
              = .next ({ s with pstate := .paired, paired := true }.outputs (.ok .none) [.outcome .paired] []))
          ∧ (r.payload[1]?.or r.payload[0]? = some 0x02 →
            exec (.pairRx d) s
              = .next ({ s with pstate := .awaitingApproval }.outputs (.ok .none) [.outcome .pairingRequired] []))
          ∧ (r.payload[1]?.or r.payload[0]? ≠ some 0x01 → r.payload[1]?.or r.payload[0]? ≠ some 0x02 →
            exec (.pairRx d) s = .next (s.outputs (.ok .none) [] [])))
      ∧ (¬ (r.commandSet = Config.params.wifiCmdSet ∧ r.commandId = Config.params.pinSetCmdId
            ∧ r.flags.getLsbD 7 = true) →
        exec (.pairRx d) s = .next (s.outputs (.ok .none) [] []))

/-- R98, R221 to R223: a frame in AwaitingApproval moves the FSM only if it is an approval notice whose first payload byte
is 0x01; in every state but the two waiting ones a frame changes nothing. -/
def Obligations.ApprovalNoticeMovesFsm : Prop :=
  ∀ (d : Bytes) (s : State) (r : FrameRecord), decodeCore d s.strict = .ok r →
    (s.pstate = .awaitingApproval →
        (r.commandSet = Config.params.wifiCmdSet ∧ r.commandId = Config.params.approvedCmdId ∧ r.payload[0]? = some 0x01 →
            exec (.pairRx d) s
              = .next ({ s with pstate := .paired, paired := true }.outputs (.ok .none) [.outcome .paired] []))
          ∧ (¬ (r.commandSet = Config.params.wifiCmdSet ∧ r.commandId = Config.params.approvedCmdId
                ∧ r.payload[0]? = some 0x01) →
            exec (.pairRx d) s = .next (s.outputs (.ok .none) [] [])))
      ∧ (s.pstate ≠ .credentialsSent → s.pstate ≠ .awaitingApproval →
        exec (.pairRx d) s = .next (s.outputs (.ok .none) [] []))

/-- R213: PAIR_RX raises the error DECODE gives, with the same info. -/
def Obligations.PairRxRaisesDecodeErrors : Prop :=
  ∀ (d : Bytes) (s : State) (e : Response), exec (.decode d) s = .next (s.outputs e [] []) → (∀ v, e ≠ .ok v) →
    exec (.pairRx d) s = .next (s.outputs e [] [])

/-- R228: PAIR_CANCEL aborts a handshake in progress, and is refused in every other state. -/
def Obligations.PairCancelAborts : Prop :=
  ∀ s : State,
    (s.pstate = .triggerSent ∨ s.pstate = .credentialsSent ∨ s.pstate = .awaitingApproval →
        exec .pairCancel s
          = .next ({ s with pstate := .aborted, phase := .none }.outputs (.ok .none) [.outcome (.pairingAborted .cancel)] []))
      ∧ (s.pstate = .idle ∨ s.pstate = .paired ∨ s.pstate = .timedOut ∨ s.pstate = .aborted →
        exec .pairCancel s = .next (s.outputs (.errState s.pstate s.phase) [] []))

/-- R230: PAIR_STATUS returns the codes of R27 and R28, POLLS and PAIRED, and changes nothing. -/
def Obligations.PairStatusReportsSession : Prop :=
  ∀ s : State, ∃ (p : BitVec 3) (ph : BitVec 2) (b : BitVec 1),
    exec .pairStatus s = .next (s.outputs (.ok (.session p ph s.polls b)) [] [])
      ∧ [PState.idle, .triggerSent, .credentialsSent, .awaitingApproval, .paired, .timedOut, .aborted][p.toNat]?
        = some s.pstate
      ∧ [Phase.none, .trigWrite, .settle, .credWrite][ph.toNat]? = some s.phase
      ∧ (b = 1 ↔ s.paired = true)

/-- R229: after PAIR_CANCEL with a write in flight, the completion that follows is refused, and frames are ignored. -/
def Obligations.CompletionAfterCancelIsRefused : Prop :=
  ∀ (s : State), s.pstate = .triggerSent → s.phase = .trigWrite ∨ s.phase = .credWrite →
    ∃ t, exec .pairCancel s = .next t
      ∧ (∀ ok, exec (.pairWriteDone ok) t = .next (t.outputs (.errState .aborted .none) [] []))
      ∧ (∀ d r, decodeCore d t.strict = .ok r → exec (.pairRx d) t = .next (t.outputs (.ok .none) [] []))

/-- R232: from Paired, TimedOut and Aborted only CONN_RESET leads away. -/
def Obligations.TerminalStatesAreLeftOnlyByReset : Prop :=
  ∀ (i : Instr) (s t : State), isTerminal s.pstate = true → s.phase = .none → exec i s = .next t → i ≠ .connReset →
    t.pstate = s.pstate ∧ t.phase = s.phase ∧ t.polls = s.polls ∧ t.paired = s.paired

/-- R233: from a legal state of the bounded wait, any commands without CONN_RESET among which the poll ticks make up the
30 leave the FSM in a terminal state. -/
def Obligations.BoundedWaitEnds : Prop :=
  ∀ (cmds : List Instr) (s : State), s.legal = true → isWaiting s.pstate = true → .connReset ∉ cmds →
    30 ≤ s.polls.toNat + pollTicks cmds →
    ∃ outs t, runCommands cmds s = some (outs, t) ∧ isTerminal t.pstate = true

/-- R202: within one session each outcome event is emitted at most once. -/
def Obligations.OutcomesAtMostOncePerSession : Prop :=
  ∀ (cmds : List Instr) (s : State), s.legal = true → s.pstate = .idle → .connReset ∉ cmds →
    ∃ outs t, runCommands cmds s = some (outs, t)
      ∧ ((outcomesOf (eventsOf outs)).map enteredState).Nodup

/-! Reset and the whole machine -/

/-- R282: CONN_RESET writes every register but STRICT, and ends OK without events. That the port's input is kept as well
is the model's reading (entries 1 and 22). -/
def Obligations.ConnResetClearsConnection : Prop :=
  ∀ s : State,
    exec .connReset s
      = .next ({ s with seq := Config.params.seqInit, acc := [], pstate := .idle, phase := .none, polls := 0,
                        paired := false, ident := [], pin := [] }.outputs (.ok .none) [] [])

/-- R283: the reset values, after power-on and after CONN_RESET. -/
def Obligations.ResetValues : Prop :=
  State.reset.seq = Config.params.seqInit ∧ State.reset.strict = false ∧ State.reset.acc = []
    ∧ State.reset.pstate = .idle ∧ State.reset.phase = .none ∧ State.reset.polls = 0 ∧ State.reset.paired = false
    ∧ State.reset.ident = [] ∧ State.reset.pin = []
    ∧ ∀ s : State, ∃ t, exec .connReset s = .next t ∧ t.seq = Config.params.seqInit ∧ t.strict = s.strict ∧ t.acc = []
      ∧ t.pstate = .idle ∧ t.phase = .none ∧ t.polls = 0 ∧ t.paired = false ∧ t.ident = [] ∧ t.pin = []

/-- The state after power-on reset is legal. -/
def Obligations.ResetIsLegal : Prop := State.reset.legal = true

/-- Every step from a legal state gives a legal state (10_state.md section 1, R25, R28 to R31; 42_framer.md R183). -/
def Obligations.StepKeepsLegal : Prop :=
  ∀ s t : State, s.legal = true → step s = .next t → t.legal = true

/-- R92, R93: the assembler's example line, and an expansion of each pseudo-instruction: CRC_DUML8, CRC_DUML16, FEED_ALL and
ENCODE_AT. Points of the text that R92 leaves open are the model's (entry 21). -/
def Obligations.AssemblerExamples : Prop :=
  assembleBytes "ENCODE 0x0402, 0x40, 0x04, 0x05, []" = some [0x12, 0x02, 0x04, 0x40, 0x04, 0x05, 0x00, 0x00]
    ∧ assemble "CRC_DUML8 [55]"
      = some [(.crc, [.nat 8, .nat 0x31, .nat 0xEE, .nat 0x00, .nat 1, .nat 1, .bytes [0x55]])]
    ∧ assemble "CRC_DUML16 [55]"
      = some [(.crc, [.nat 16, .nat 0x1021, .nat 0x496C, .nat 0x0000, .nat 1, .nat 1, .bytes [0x55]])]
    ∧ assemble "FEED_ALL [55], [0D 04]" = some [(.feed, [.bytes [0x55]]), (.feed, [.bytes [0x0D, 0x04]])]
    ∧ assemble "ENCODE_AT 7, 1, 2, 3, 4, []"
      = some [(.seqReset, [.nat 7]), (.encode, [.nat 1, .nat 2, .nat 3, .nat 4, .bytes []])]
end

