-- ==== Sys2Proof/Laws/State.lean ====
section
/-! SUPPORT. One lemma per field per state update, so that no proof unfolds a record update. -/

namespace Sys2Proof.Machine

variable (s : State)

/-! `State.setSeq` -/

@[simp] theorem setSeq_seq (v : Half) : (s.setSeq v).seq = v := rfl
@[simp] theorem setSeq_strict (v : Half) : (s.setSeq v).strict = s.strict := rfl
@[simp] theorem setSeq_acc (v : Half) : (s.setSeq v).acc = s.acc := rfl
@[simp] theorem setSeq_pstate (v : Half) : (s.setSeq v).pstate = s.pstate := rfl
@[simp] theorem setSeq_phase (v : Half) : (s.setSeq v).phase = s.phase := rfl
@[simp] theorem setSeq_polls (v : Half) : (s.setSeq v).polls = s.polls := rfl
@[simp] theorem setSeq_paired (v : Half) : (s.setSeq v).paired = s.paired := rfl
@[simp] theorem setSeq_ident (v : Half) : (s.setSeq v).ident = s.ident := rfl
@[simp] theorem setSeq_pin (v : Half) : (s.setSeq v).pin = s.pin := rfl
@[simp] theorem setSeq_port (v : Half) : (s.setSeq v).port = s.port := rfl
@[simp] theorem setSeq_out (v : Half) : (s.setSeq v).out = s.out := rfl

/-! `State.setStrict` -/

@[simp] theorem setStrict_seq (v : Bool) : (s.setStrict v).seq = s.seq := rfl
@[simp] theorem setStrict_strict (v : Bool) : (s.setStrict v).strict = v := rfl
@[simp] theorem setStrict_acc (v : Bool) : (s.setStrict v).acc = s.acc := rfl
@[simp] theorem setStrict_pstate (v : Bool) : (s.setStrict v).pstate = s.pstate := rfl
@[simp] theorem setStrict_phase (v : Bool) : (s.setStrict v).phase = s.phase := rfl
@[simp] theorem setStrict_polls (v : Bool) : (s.setStrict v).polls = s.polls := rfl
@[simp] theorem setStrict_paired (v : Bool) : (s.setStrict v).paired = s.paired := rfl
@[simp] theorem setStrict_ident (v : Bool) : (s.setStrict v).ident = s.ident := rfl
@[simp] theorem setStrict_pin (v : Bool) : (s.setStrict v).pin = s.pin := rfl
@[simp] theorem setStrict_port (v : Bool) : (s.setStrict v).port = s.port := rfl
@[simp] theorem setStrict_out (v : Bool) : (s.setStrict v).out = s.out := rfl

/-! `State.setAcc` -/

@[simp] theorem setAcc_seq (v : Bytes) : (s.setAcc v).seq = s.seq := rfl
@[simp] theorem setAcc_strict (v : Bytes) : (s.setAcc v).strict = s.strict := rfl
@[simp] theorem setAcc_acc (v : Bytes) : (s.setAcc v).acc = v := rfl
@[simp] theorem setAcc_pstate (v : Bytes) : (s.setAcc v).pstate = s.pstate := rfl
@[simp] theorem setAcc_phase (v : Bytes) : (s.setAcc v).phase = s.phase := rfl
@[simp] theorem setAcc_polls (v : Bytes) : (s.setAcc v).polls = s.polls := rfl
@[simp] theorem setAcc_paired (v : Bytes) : (s.setAcc v).paired = s.paired := rfl
@[simp] theorem setAcc_ident (v : Bytes) : (s.setAcc v).ident = s.ident := rfl
@[simp] theorem setAcc_pin (v : Bytes) : (s.setAcc v).pin = s.pin := rfl
@[simp] theorem setAcc_port (v : Bytes) : (s.setAcc v).port = s.port := rfl
@[simp] theorem setAcc_out (v : Bytes) : (s.setAcc v).out = s.out := rfl

/-! `State.setPState` -/

@[simp] theorem setPState_seq (v : PState) : (s.setPState v).seq = s.seq := rfl
@[simp] theorem setPState_strict (v : PState) : (s.setPState v).strict = s.strict := rfl
@[simp] theorem setPState_acc (v : PState) : (s.setPState v).acc = s.acc := rfl
@[simp] theorem setPState_pstate (v : PState) : (s.setPState v).pstate = v := rfl
@[simp] theorem setPState_phase (v : PState) : (s.setPState v).phase = s.phase := rfl
@[simp] theorem setPState_polls (v : PState) : (s.setPState v).polls = s.polls := rfl
@[simp] theorem setPState_paired (v : PState) : (s.setPState v).paired = s.paired := rfl
@[simp] theorem setPState_ident (v : PState) : (s.setPState v).ident = s.ident := rfl
@[simp] theorem setPState_pin (v : PState) : (s.setPState v).pin = s.pin := rfl
@[simp] theorem setPState_port (v : PState) : (s.setPState v).port = s.port := rfl
@[simp] theorem setPState_out (v : PState) : (s.setPState v).out = s.out := rfl

/-! `State.setPhase` -/

@[simp] theorem setPhase_seq (v : Phase) : (s.setPhase v).seq = s.seq := rfl
@[simp] theorem setPhase_strict (v : Phase) : (s.setPhase v).strict = s.strict := rfl
@[simp] theorem setPhase_acc (v : Phase) : (s.setPhase v).acc = s.acc := rfl
@[simp] theorem setPhase_pstate (v : Phase) : (s.setPhase v).pstate = s.pstate := rfl
@[simp] theorem setPhase_phase (v : Phase) : (s.setPhase v).phase = v := rfl
@[simp] theorem setPhase_polls (v : Phase) : (s.setPhase v).polls = s.polls := rfl
@[simp] theorem setPhase_paired (v : Phase) : (s.setPhase v).paired = s.paired := rfl
@[simp] theorem setPhase_ident (v : Phase) : (s.setPhase v).ident = s.ident := rfl
@[simp] theorem setPhase_pin (v : Phase) : (s.setPhase v).pin = s.pin := rfl
@[simp] theorem setPhase_port (v : Phase) : (s.setPhase v).port = s.port := rfl
@[simp] theorem setPhase_out (v : Phase) : (s.setPhase v).out = s.out := rfl

/-! `State.setPolls` -/

@[simp] theorem setPolls_seq (v : BitVec 8) : (s.setPolls v).seq = s.seq := rfl
@[simp] theorem setPolls_strict (v : BitVec 8) : (s.setPolls v).strict = s.strict := rfl
@[simp] theorem setPolls_acc (v : BitVec 8) : (s.setPolls v).acc = s.acc := rfl
@[simp] theorem setPolls_pstate (v : BitVec 8) : (s.setPolls v).pstate = s.pstate := rfl
@[simp] theorem setPolls_phase (v : BitVec 8) : (s.setPolls v).phase = s.phase := rfl
@[simp] theorem setPolls_polls (v : BitVec 8) : (s.setPolls v).polls = v := rfl
@[simp] theorem setPolls_paired (v : BitVec 8) : (s.setPolls v).paired = s.paired := rfl
@[simp] theorem setPolls_ident (v : BitVec 8) : (s.setPolls v).ident = s.ident := rfl
@[simp] theorem setPolls_pin (v : BitVec 8) : (s.setPolls v).pin = s.pin := rfl
@[simp] theorem setPolls_port (v : BitVec 8) : (s.setPolls v).port = s.port := rfl
@[simp] theorem setPolls_out (v : BitVec 8) : (s.setPolls v).out = s.out := rfl

/-! `State.setPaired` -/

@[simp] theorem setPaired_seq (v : Bool) : (s.setPaired v).seq = s.seq := rfl
@[simp] theorem setPaired_strict (v : Bool) : (s.setPaired v).strict = s.strict := rfl
@[simp] theorem setPaired_acc (v : Bool) : (s.setPaired v).acc = s.acc := rfl
@[simp] theorem setPaired_pstate (v : Bool) : (s.setPaired v).pstate = s.pstate := rfl
@[simp] theorem setPaired_phase (v : Bool) : (s.setPaired v).phase = s.phase := rfl
@[simp] theorem setPaired_polls (v : Bool) : (s.setPaired v).polls = s.polls := rfl
@[simp] theorem setPaired_paired (v : Bool) : (s.setPaired v).paired = v := rfl
@[simp] theorem setPaired_ident (v : Bool) : (s.setPaired v).ident = s.ident := rfl
@[simp] theorem setPaired_pin (v : Bool) : (s.setPaired v).pin = s.pin := rfl
@[simp] theorem setPaired_port (v : Bool) : (s.setPaired v).port = s.port := rfl
@[simp] theorem setPaired_out (v : Bool) : (s.setPaired v).out = s.out := rfl

/-! `State.setIdent` -/

@[simp] theorem setIdent_seq (v : Bytes) : (s.setIdent v).seq = s.seq := rfl
@[simp] theorem setIdent_strict (v : Bytes) : (s.setIdent v).strict = s.strict := rfl
@[simp] theorem setIdent_acc (v : Bytes) : (s.setIdent v).acc = s.acc := rfl
@[simp] theorem setIdent_pstate (v : Bytes) : (s.setIdent v).pstate = s.pstate := rfl
@[simp] theorem setIdent_phase (v : Bytes) : (s.setIdent v).phase = s.phase := rfl
@[simp] theorem setIdent_polls (v : Bytes) : (s.setIdent v).polls = s.polls := rfl
@[simp] theorem setIdent_paired (v : Bytes) : (s.setIdent v).paired = s.paired := rfl
@[simp] theorem setIdent_ident (v : Bytes) : (s.setIdent v).ident = v := rfl
@[simp] theorem setIdent_pin (v : Bytes) : (s.setIdent v).pin = s.pin := rfl
@[simp] theorem setIdent_port (v : Bytes) : (s.setIdent v).port = s.port := rfl
@[simp] theorem setIdent_out (v : Bytes) : (s.setIdent v).out = s.out := rfl

/-! `State.setPin` -/

@[simp] theorem setPin_seq (v : Bytes) : (s.setPin v).seq = s.seq := rfl
@[simp] theorem setPin_strict (v : Bytes) : (s.setPin v).strict = s.strict := rfl
@[simp] theorem setPin_acc (v : Bytes) : (s.setPin v).acc = s.acc := rfl
@[simp] theorem setPin_pstate (v : Bytes) : (s.setPin v).pstate = s.pstate := rfl
@[simp] theorem setPin_phase (v : Bytes) : (s.setPin v).phase = s.phase := rfl
@[simp] theorem setPin_polls (v : Bytes) : (s.setPin v).polls = s.polls := rfl
@[simp] theorem setPin_paired (v : Bytes) : (s.setPin v).paired = s.paired := rfl
@[simp] theorem setPin_ident (v : Bytes) : (s.setPin v).ident = s.ident := rfl
@[simp] theorem setPin_pin (v : Bytes) : (s.setPin v).pin = v := rfl
@[simp] theorem setPin_port (v : Bytes) : (s.setPin v).port = s.port := rfl
@[simp] theorem setPin_out (v : Bytes) : (s.setPin v).out = s.out := rfl

/-! `State.setPort` -/

@[simp] theorem setPort_seq (v : Bytes) : (s.setPort v).seq = s.seq := rfl
@[simp] theorem setPort_strict (v : Bytes) : (s.setPort v).strict = s.strict := rfl
@[simp] theorem setPort_acc (v : Bytes) : (s.setPort v).acc = s.acc := rfl
@[simp] theorem setPort_pstate (v : Bytes) : (s.setPort v).pstate = s.pstate := rfl
@[simp] theorem setPort_phase (v : Bytes) : (s.setPort v).phase = s.phase := rfl
@[simp] theorem setPort_polls (v : Bytes) : (s.setPort v).polls = s.polls := rfl
@[simp] theorem setPort_paired (v : Bytes) : (s.setPort v).paired = s.paired := rfl
@[simp] theorem setPort_ident (v : Bytes) : (s.setPort v).ident = s.ident := rfl
@[simp] theorem setPort_pin (v : Bytes) : (s.setPort v).pin = s.pin := rfl
@[simp] theorem setPort_port (v : Bytes) : (s.setPort v).port = v := rfl
@[simp] theorem setPort_out (v : Bytes) : (s.setPort v).out = s.out := rfl

/-! `State.start` -/

@[simp] theorem start_seq : s.start.seq = s.seq := rfl
@[simp] theorem start_strict : s.start.strict = s.strict := rfl
@[simp] theorem start_acc : s.start.acc = s.acc := rfl
@[simp] theorem start_pstate : s.start.pstate = s.pstate := rfl
@[simp] theorem start_phase : s.start.phase = s.phase := rfl
@[simp] theorem start_polls : s.start.polls = s.polls := rfl
@[simp] theorem start_paired : s.start.paired = s.paired := rfl
@[simp] theorem start_ident : s.start.ident = s.ident := rfl
@[simp] theorem start_pin : s.start.pin = s.pin := rfl
@[simp] theorem start_port : s.start.port = s.port := rfl
@[simp] theorem start_out : s.start.out = { response := none, events := [], requests := [] } := rfl

/-! `State.emit` -/

@[simp] theorem emit_seq (e : Event) : (s.emit e).seq = s.seq := rfl
@[simp] theorem emit_strict (e : Event) : (s.emit e).strict = s.strict := rfl
@[simp] theorem emit_acc (e : Event) : (s.emit e).acc = s.acc := rfl
@[simp] theorem emit_pstate (e : Event) : (s.emit e).pstate = s.pstate := rfl
@[simp] theorem emit_phase (e : Event) : (s.emit e).phase = s.phase := rfl
@[simp] theorem emit_polls (e : Event) : (s.emit e).polls = s.polls := rfl
@[simp] theorem emit_paired (e : Event) : (s.emit e).paired = s.paired := rfl
@[simp] theorem emit_ident (e : Event) : (s.emit e).ident = s.ident := rfl
@[simp] theorem emit_pin (e : Event) : (s.emit e).pin = s.pin := rfl
@[simp] theorem emit_port (e : Event) : (s.emit e).port = s.port := rfl
@[simp] theorem emit_out (e : Event) : (s.emit e).out = { s.out with events := s.out.events ++ [e] } := rfl

/-! `State.txreq` -/

@[simp] theorem txreq_seq (c : Channel) (d : Bytes) : (s.txreq c d).seq = s.seq := rfl
@[simp] theorem txreq_strict (c : Channel) (d : Bytes) : (s.txreq c d).strict = s.strict := rfl
@[simp] theorem txreq_acc (c : Channel) (d : Bytes) : (s.txreq c d).acc = s.acc := rfl
@[simp] theorem txreq_pstate (c : Channel) (d : Bytes) : (s.txreq c d).pstate = s.pstate := rfl
@[simp] theorem txreq_phase (c : Channel) (d : Bytes) : (s.txreq c d).phase = s.phase := rfl
@[simp] theorem txreq_polls (c : Channel) (d : Bytes) : (s.txreq c d).polls = s.polls := rfl
@[simp] theorem txreq_paired (c : Channel) (d : Bytes) : (s.txreq c d).paired = s.paired := rfl
@[simp] theorem txreq_ident (c : Channel) (d : Bytes) : (s.txreq c d).ident = s.ident := rfl
@[simp] theorem txreq_pin (c : Channel) (d : Bytes) : (s.txreq c d).pin = s.pin := rfl
@[simp] theorem txreq_port (c : Channel) (d : Bytes) : (s.txreq c d).port = s.port := rfl
@[simp] theorem txreq_out (c : Channel) (d : Bytes) : (s.txreq c d).out = { s.out with requests := s.out.requests ++ [{ channel := c, data := d }] } := rfl

/-! `State.respond` -/

@[simp] theorem respond_seq (r : Result) : (s.respond r).seq = s.seq := rfl
@[simp] theorem respond_strict (r : Result) : (s.respond r).strict = s.strict := rfl
@[simp] theorem respond_acc (r : Result) : (s.respond r).acc = s.acc := rfl
@[simp] theorem respond_pstate (r : Result) : (s.respond r).pstate = s.pstate := rfl
@[simp] theorem respond_phase (r : Result) : (s.respond r).phase = s.phase := rfl
@[simp] theorem respond_polls (r : Result) : (s.respond r).polls = s.polls := rfl
@[simp] theorem respond_paired (r : Result) : (s.respond r).paired = s.paired := rfl
@[simp] theorem respond_ident (r : Result) : (s.respond r).ident = s.ident := rfl
@[simp] theorem respond_pin (r : Result) : (s.respond r).pin = s.pin := rfl
@[simp] theorem respond_port (r : Result) : (s.respond r).port = s.port := rfl
@[simp] theorem respond_out (r : Result) : (s.respond r).out = { s.out with response := some (.ok r) } := rfl

/-! `State.endWith` -/

@[simp] theorem endWith_seq (r : Response) : (s.endWith r).seq = s.seq := rfl
@[simp] theorem endWith_strict (r : Response) : (s.endWith r).strict = s.strict := rfl
@[simp] theorem endWith_acc (r : Response) : (s.endWith r).acc = s.acc := rfl
@[simp] theorem endWith_pstate (r : Response) : (s.endWith r).pstate = s.pstate := rfl
@[simp] theorem endWith_phase (r : Response) : (s.endWith r).phase = s.phase := rfl
@[simp] theorem endWith_polls (r : Response) : (s.endWith r).polls = s.polls := rfl
@[simp] theorem endWith_paired (r : Response) : (s.endWith r).paired = s.paired := rfl
@[simp] theorem endWith_ident (r : Response) : (s.endWith r).ident = s.ident := rfl
@[simp] theorem endWith_pin (r : Response) : (s.endWith r).pin = s.pin := rfl
@[simp] theorem endWith_port (r : Response) : (s.endWith r).port = s.port := rfl
@[simp] theorem endWith_out (r : Response) : (s.endWith r).out = { s.out with response := some r } := rfl

/-! `State.raise` -/

@[simp] theorem raise_seq (r : Response) : (s.raise r).seq = s.seq := rfl
@[simp] theorem raise_strict (r : Response) : (s.raise r).strict = s.strict := rfl
@[simp] theorem raise_acc (r : Response) : (s.raise r).acc = s.acc := rfl
@[simp] theorem raise_pstate (r : Response) : (s.raise r).pstate = s.pstate := rfl
@[simp] theorem raise_phase (r : Response) : (s.raise r).phase = s.phase := rfl
@[simp] theorem raise_polls (r : Response) : (s.raise r).polls = s.polls := rfl
@[simp] theorem raise_paired (r : Response) : (s.raise r).paired = s.paired := rfl
@[simp] theorem raise_ident (r : Response) : (s.raise r).ident = s.ident := rfl
@[simp] theorem raise_pin (r : Response) : (s.raise r).pin = s.pin := rfl
@[simp] theorem raise_port (r : Response) : (s.raise r).port = s.port := rfl
@[simp] theorem raise_out (r : Response) : (s.raise r).out = { response := some r, events := [], requests := [] } := rfl

end Sys2Proof.Machine
end

