-- ==== Sys2Proof/Laws/Ops.lean ====
section
/-! SUPPORT. What each shared operation can do, said once. -/

namespace Sys2Proof.Machine

/-- `reflect` is its own inverse. -/
theorem reflect_reflect {n : Nat} (v : BitVec n) : reflect (reflect v) = v := by simp [reflect]

/-- The header's length field as arithmetic (R73). -/
theorem lengthField_toNat (b1 b2 : Byte) : (lengthField b1 b2).toNat = b1.toNat + 256 * (b2.toNat % 4) := by
  have h : (b2.extractLsb' 0 2).toNat = b2.toNat % 4 := by simp [BitVec.extractLsb'_toNat]
  rw [lengthField, BitVec.toNat_append, h, ← Nat.shiftLeft_add_eq_or_of_lt (by omega), Nat.shiftLeft_eq]
  omega

/-- `frameLength` is `headerLength`. -/
theorem frameLength_eq (f : Bytes) : frameLength f = headerLength f := lengthField_toNat _ _

/-- A 10-bit length is at most 1023 (R70). -/
theorem headerLength_le (f : Bytes) : headerLength f ≤ 1023 := by
  have := (byteAt f 1).isLt
  unfold headerLength; omega

/-- `le16` as arithmetic. -/
theorem le16_toNat (b0 b1 : Byte) : (le16 b0 b1).toNat = b0.toNat + 256 * b1.toNat := by
  rw [le16, BitVec.toNat_append, ← Nat.shiftLeft_add_eq_or_of_lt (by omega), Nat.shiftLeft_eq]
  omega

/-- `be16` as arithmetic. -/
theorem be16_toNat (b0 b1 : Byte) : (be16 b0 b1).toNat = 256 * b0.toNat + b1.toNat := by
  rw [be16, BitVec.toNat_append, ← Nat.shiftLeft_add_eq_or_of_lt (by omega), Nat.shiftLeft_eq]
  omega

/-- `v[7:0]` as arithmetic. -/
theorem lo8_toNat (v : Half) : (lo8 v).toNat = v.toNat % 256 := by simp [lo8, BitVec.extractLsb'_toNat]

/-- `v[15:8]` as arithmetic. -/
theorem hi8_toNat (v : Half) : (hi8 v).toNat = v.toNat / 256 := by
  have := v.isLt
  simp only [hi8, BitVec.extractLsb'_toNat, Nat.shiftRight_eq_div_pow]; omega

/-- Both bytes of a value, low first, are the value. -/
theorem le16_lo8_hi8 (v : Half) : le16 (lo8 v) (hi8 v) = v := by
  have := v.isLt
  apply BitVec.eq_of_toNat_eq; rw [le16_toNat, lo8_toNat, hi8_toNat]; omega

/-- Both bytes of a value, high first, are the value. -/
theorem be16_hi8_lo8 (v : Half) : be16 (hi8 v) (lo8 v) = v := by
  have := v.isLt
  apply BitVec.eq_of_toNat_eq; rw [be16_toNat, lo8_toNat, hi8_toNat]; omega

/-- The capacity check fails exactly where a finite capacity would be exceeded (R171). -/
theorem overflows_iff (acc chunk : Bytes) : overflows Config.params acc chunk = true ↔ ExceedsCap acc chunk := by
  unfold overflows ExceedsCap
  cases Config.params.accCap <;> simp

/-- The status byte is the second payload byte, else the first (R214). -/
theorem statusByte_eq (f : FrameRecord) : statusByte f = f.payload[1]?.or f.payload[0]? := by
  unfold statusByte
  rcases f.payload with _ | ⟨a, _ | ⟨b, c⟩⟩ <;> simp

/-- The response-flag bit is bit 7 (R78). -/
theorem responseFlag_eq (flags : Byte) : responseFlag flags = flags.getLsbD 7 := by
  revert flags; decide

/-- What `StatusRule` can do (R216). -/
theorem statusRule_cases (p : Config.Params) (s : State) (f : FrameRecord) :
    (isPinSetResponse p f = true ∧ statusByte f = some 0x01 ∧ s.statusRule p f = s.enterPaired)
      ∨ (isPinSetResponse p f = true ∧ statusByte f = some 0x02 ∧ s.statusRule p f = s.enterAwaiting)
      ∨ (¬ (isPinSetResponse p f = true ∧ (statusByte f = some 0x01 ∨ statusByte f = some 0x02))
        ∧ s.statusRule p f = s) := by
  unfold State.statusRule
  by_cases h : isPinSetResponse p f = true
  · rw [if_pos h]
    by_cases h1 : statusByte f = some 0x01
    · exact .inl ⟨h, h1, if_pos h1⟩
    · rw [if_neg h1]
      by_cases h2 : statusByte f = some 0x02
      · exact .inr (.inl ⟨h, h2, if_pos h2⟩)
      · exact .inr (.inr ⟨fun c => c.2.elim h1 h2, if_neg h2⟩)
  · exact .inr (.inr ⟨fun c => h c.1, if_neg h⟩)

/-- What `ApprovalRule` can do (R221). -/
theorem approvalRule_cases (p : Config.Params) (s : State) (f : FrameRecord) :
    (isApprovalNotice p f = true ∧ f.payload.head? = some 0x01 ∧ s.approvalRule p f = s.enterPaired)
      ∨ (¬ (isApprovalNotice p f = true ∧ f.payload.head? = some 0x01) ∧ s.approvalRule p f = s) := by
  unfold State.approvalRule
  by_cases h : isApprovalNotice p f = true ∧ f.payload.head? = some 0x01
  · exact .inl ⟨h.1, h.2, if_pos h⟩
  · exact .inr ⟨h, if_neg h⟩

/-- What `Offer` can do to the state (R212). -/
theorem offer_cases (p : Config.Params) (s : State) (f : FrameRecord) :
    s.offer p f = s
      ∨ (isWaiting s.pstate = true ∧ s.offer p f = s.enterPaired)
      ∨ (s.pstate = .credentialsSent ∧ s.offer p f = s.enterAwaiting) := by
  unfold State.offer
  cases h : s.pstate <;> simp only [isWaiting, true_or]
  · rcases statusRule_cases p s f with ⟨-, -, e⟩ | ⟨-, -, e⟩ | ⟨-, e⟩ <;> simp [e]
  · rcases approvalRule_cases p s f with ⟨-, -, e⟩ | ⟨-, e⟩ <;> simp [e]

/-- A frame in a state that is not waiting changes nothing (R223). -/
theorem offer_not_waiting (p : Config.Params) (s : State) (f : FrameRecord) (h : isWaiting s.pstate = false) :
    s.offer p f = s := by
  unfold State.offer
  cases hp : s.pstate <;> simp_all [isWaiting]

/-- Only `PSTATE`, `PAIRED` and the events can change in an operation of the framer's path. -/
def FramerFrame (s t : State) : Prop :=
  t = { s with pstate := t.pstate, paired := t.paired, out := { s.out with events := t.out.events } }

theorem FramerFrame.refl (s : State) : FramerFrame s s := rfl

theorem FramerFrame.trans {s t u : State} (h : FramerFrame s t) (k : FramerFrame t u) : FramerFrame s u := by
  unfold FramerFrame at *
  rw [k, h]

/-- `Offer` keeps all but the session's state and the events (R212). -/
theorem offer_frame (p : Config.Params) (s : State) (f : FrameRecord) : FramerFrame s (s.offer p f) := by
  rcases offer_cases p s f with e | ⟨-, e⟩ | ⟨-, e⟩ <;> rw [e] <;> rfl

/-- What `Deliver` does (R179): surface the frame and offer it, or surface a checksum mismatch, or nothing (R180). -/
theorem deliver_cases (p : Config.Params) (s : State) (f : Bytes) :
    (∃ r, decodeCore f s.strict = .ok r ∧ s.deliver p f = (s.emit (.frameOut r)).offer p r)
      ∨ (∃ w, decodeCore f s.strict = .error (.decChecksum w) ∧ s.deliver p f = s.emit (.checksumMismatch f w))
      ∨ ((∃ e, decodeCore f s.strict = .error e ∧ ∀ w, e ≠ .decChecksum w) ∧ s.deliver p f = s) := by
  unfold State.deliver
  cases h : decodeCore f s.strict with
  | ok r => exact .inl ⟨r, rfl, rfl⟩
  | error e => cases e <;> simp

/-- `Deliver` keeps all but the session's state and the events. -/
theorem deliver_frame (p : Config.Params) (s : State) (f : Bytes) : FramerFrame s (s.deliver p f) := by
  rcases deliver_cases p s f with ⟨r, -, e⟩ | ⟨w, -, e⟩ | ⟨-, e⟩ <;> rw [e]
  · exact FramerFrame.trans (t := s.emit (.frameOut r)) rfl (offer_frame p _ r)
  · rfl
  · rfl

/-- The cases of `DecodeCore` in their order (R138). -/
theorem decodeCore_eq (d : Bytes) (strict : Bool) :
    decodeCore d strict =
      if d.length < 13 then .error (.decShort d.length)
      else if byteAt d 0 ≠ 0x55 then .error (.decMagic (byteAt d 0))
      else if headerLength d < 13 then .error (.decLength (headerLength d))
      else if d.length < headerLength d then .error (.decIncomplete d.length (headerLength d))
      else if strict = true ∧ checksumReport (d.take (headerLength d)) ≠ 0 then
        .error (.decChecksum (checksumReport (d.take (headerLength d))))
      else .ok (fieldsOf (d.take (headerLength d))) := by
  simp only [decodeCore, frameLength_eq, Config.minLen, Config.magic]

/-- A poll tick in the bounded wait counts, and times out where the count reaches the limit (R225). -/
theorem pollOnce_cases (s : State) :
    (s.polls + 1 = 30 ∧ s.pollOnce = ((s.setPolls 30).setPState .timedOut).emit (.outcome .pairingTimeout))
      ∨ (s.polls + 1 ≠ 30 ∧ s.pollOnce = s.setPolls (s.polls + 1)) := by
  unfold State.pollOnce
  by_cases h : s.polls + 1 = Config.pollLimit
  · exact .inl ⟨h, by rw [if_pos h, h]; rfl⟩
  · exact .inr ⟨h, if_neg h⟩

/-- Taking a sequence number (R132). -/
theorem seqNext_eq (s : State) : s.seqNext = (s.seq, s.setSeq (s.seq + 1)) := rfl

/-- Building a frame takes a sequence number and nothing else (R133). -/
theorem encodeFrame_eq (s : State) (target : Half) (flags commandSet commandId : Byte) (payload : Bytes) :
    s.encodeFrame target flags commandSet commandId payload
      = (buildFrame target s.seq flags commandSet commandId payload, s.setSeq (s.seq + 1)) := rfl

/-- Which string a PAIR_START refuses (R205). -/
theorem badString_eq (ident pin : Bytes) :
    badString ident pin = if 255 < ident.length then some (.ident, ident.length)
      else if 255 < pin.length then some (.pin, pin.length) else none := rfl

/-- A candidate decodes, or its checksums are wrong in strict mode (R180). -/
theorem decodeCore_candidate (f : Bytes) (strict : Bool) (h : isCandidate f = true) :
    decodeCore f strict =
      if strict = true ∧ checksumReport f ≠ 0 then .error (.decChecksum (checksumReport f)) else .ok (fieldsOf f) := by
  simp only [isCandidate, Bool.and_eq_true, beq_iff_eq, decide_eq_true_eq] at h
  obtain ⟨⟨h0, h1⟩, h2⟩ := h
  rw [decodeCore_eq, h2, List.take_length]
  simp [h0, Nat.not_lt.mpr h1]

/-- The report's bits as a number (R141). -/
theorem checksumReport_toNat (f : Bytes) : (checksumReport f).toNat = reportOf f := by
  have h : (trailerOf f = crc16 (coveredBytes f)) ↔ ((byteAt f (f.length - 2)).toNat
      + 256 * (byteAt f (f.length - 1)).toNat = (crc16 (f.take (f.length - 2))).toNat) := by
    rw [← BitVec.toNat_inj, trailerOf, le16_toNat]; rfl
  unfold checksumReport reportOf mismatchBits
  simp only [← h]
  by_cases a : byteAt f 3 = crc8 (f.take 3) <;> by_cases b : trailerOf f = crc16 (coveredBytes f) <;> simp [a, b]

/-- `Fields(F)` is the record of R139's table. -/
theorem fieldsOf_record (f : Bytes) : RecordOf (fieldsOf f) f where
  magic := rfl
  length := lengthField_toNat _ _
  version := by
    have := (byteAt f 2).isLt
    simp only [fieldsOf, BitVec.extractLsb'_toNat, Nat.shiftRight_eq_div_pow]; omega
  headerChecksum := rfl
  sender := rfl
  receiver := rfl
  target := le16_toNat _ _
  sequenceId := be16_toNat _ _
  flags := rfl
  commandSet := rfl
  commandId := rfl
  payload := rfl
  trailingChecksum := le16_toNat _ _
  raw := rfl

end Sys2Proof.Machine
end

