-- ==== Sys2Proof/Laws/Decode.lean ====
section
/-! SUPPORT. The command port's encoding: each operand form read back from what was written, and written back from what was
read (30_encoding.md R88, R89, R102). -/

namespace Sys2Proof

open Machine (lo8 hi8 le16 le16_lo8_hi8 le16_toNat lo8_toNat hi8_toNat)

/-- The opcode map in both directions (R88). -/
theorem Opcode.ofByte_eq_some (b : Byte) (op : Opcode) : Opcode.ofByte b = some op ↔ op.byte = b := by
  revert b; cases op <;> decide

@[simp] theorem Opcode.ofByte_byte (op : Opcode) : Opcode.ofByte op.byte = some op :=
  (Opcode.ofByte_eq_some _ _).mpr rfl

/-- The illegal bytes are those R88 does not list (R90). -/
theorem Opcode.ofByte_eq_none (b : Byte) : Opcode.ofByte b = none ↔ b ∉ Machine.assignedBytes := by
  revert b; decide

/-- A command's opcode and operands decode as a tuple to the command (R91). -/
theorem Opcode.check_of (op : Opcode) (args : List Operand) (i : Instr) (h : firstBad 0 op.shape args = none)
    (hb : op.build args = some i) : op.check args = .instr i := by
  simp [Opcode.check, h, hb]

/-- What the operand check can answer (R89). -/
theorem Opcode.check_cases (op : Opcode) (args : List Operand) :
    (∃ k, firstBad 0 op.shape args = some k ∧ op.check args = .malformed k)
      ∨ (firstBad 0 op.shape args = none ∧ ∃ i, op.build args = some i ∧ op.check args = .instr i)
      ∨ (firstBad 0 op.shape args = none ∧ op.build args = none ∧ op.check args = .malformed 0) := by
  unfold Opcode.check
  cases firstBad 0 op.shape args with
  | some k => exact .inl ⟨k, rfl, rfl⟩
  | none =>
    cases op.build args with
    | some i => exact .inr (.inl ⟨rfl, i, rfl, rfl⟩)
    | none => exact .inr (.inr ⟨rfl, rfl, rfl⟩)

/-- An operand that can be serialised: of the type, and no byte string over 65535 bytes (R89, R102). -/
def serialisable : OperandType → Operand → Bool
  | t, .nat v => t.admits (.nat v)
  | t, .bytes b => t.admits (.bytes b) && fitsPrefix b

/-- Reading back what was written (R102). -/
theorem readOperand_write (t : OperandType) (v : Operand) (rest : Bytes) (h : serialisable t v = true) :
    readOperand t (writeOperand t v ++ rest) = some (v, rest) := by
  cases t <;> cases v <;> simp [serialisable, OperandType.admits, fitsPrefix] at h <;>
    simp only [writeOperand, List.cons_append, List.nil_append, readOperand, le16_lo8_hi8, BitVec.toNat_ofNat]
  · rw [Nat.mod_eq_of_lt (by omega)]
  · rw [Nat.mod_eq_of_lt (by omega)]
  · rw [Nat.mod_eq_of_lt (by omega)]
  · rw [Nat.mod_eq_of_lt (by omega)]
  · rename_i b
    rw [Nat.mod_eq_of_lt (by omega), if_pos (by simp), List.take_left, List.drop_left]

/-- Writing back what was read (R102): a value of the type is written as the bytes it was read from. -/
theorem writeOperand_read (t : OperandType) (v : Operand) (bs rest : Bytes) (h : readOperand t bs = some (v, rest)) :
    bs = writeOperand t v ++ rest ∧ (t.admits v = true → serialisable t v = true) := by
  unfold readOperand at h
  split at h
  · rename_i b0 b1 r
    simp only [Option.some.injEq, Prod.mk.injEq] at h
    obtain ⟨rfl, rfl⟩ := h
    have h0 : lo8 (le16 b0 b1) = b0 := by
      apply BitVec.eq_of_toNat_eq; rw [lo8_toNat, le16_toNat]; omega
    have h1 : hi8 (le16 b0 b1) = b1 := by
      apply BitVec.eq_of_toNat_eq; rw [hi8_toNat, le16_toNat]; omega
    simp [writeOperand, h0, h1, serialisable]
  · rename_i b0 b1 r
    split at h
    · rename_i hl
      simp only [Option.some.injEq, Prod.mk.injEq] at h
      obtain ⟨rfl, rfl⟩ := h
      have h2 : (r.take (le16 b0 b1).toNat).length = (le16 b0 b1).toNat := by
        rw [List.length_take]; omega
      have h0 : lo8 (le16 b0 b1) = b0 := by
        apply BitVec.eq_of_toNat_eq; rw [lo8_toNat, le16_toNat]; omega
      have h1 : hi8 (le16 b0 b1) = b1 := by
        apply BitVec.eq_of_toNat_eq; rw [hi8_toNat, le16_toNat]; omega
      have h3 := (le16 b0 b1).isLt
      refine ⟨?_, fun _ => ?_⟩
      · simp only [writeOperand, h2, BitVec.ofNat_toNat, BitVec.setWidth_eq, h0, h1, List.cons_append,
          List.take_append_drop]
      · simp only [serialisable, OperandType.admits, fitsPrefix, h2, Bool.true_and, decide_eq_true_eq]; omega
    · cases h
  all_goals first
    | (simp only [Option.some.injEq, Prod.mk.injEq] at h; obtain ⟨rfl, rfl⟩ := h; simp [writeOperand, serialisable])
    | cases h

/-- A tuple all of whose operands can be serialised, each by its type. -/
def serialisables : List OperandType → List Operand → Bool
  | [], [] => true
  | t :: ts, v :: vs => serialisable t v && serialisables ts vs
  | _, _ => false

/-- Reading back a tuple (R102). -/
theorem readOperands_write (ts : List OperandType) (vs : List Operand) (rest : Bytes) (h : serialisables ts vs = true) :
    readOperands ts (writeOperands ts vs ++ rest) = (vs, rest) := by
  induction ts generalizing vs with
  | nil => cases vs <;> simp_all [serialisables, readOperands, writeOperands]
  | cons t ts ih =>
    cases vs with
    | nil => simp [serialisables] at h
    | cons v vs =>
      simp only [serialisables, Bool.and_eq_true] at h
      simp only [writeOperands, List.append_assoc, readOperands, readOperand_write t v _ h.1, ih vs h.2]

/-- Writing back a tuple that passed the operand check (R89, R102). -/
theorem writeOperands_read (ts : List OperandType) (bs : Bytes) (k : Nat)
    (h : firstBad k ts (readOperands ts bs).1 = none) :
    bs = writeOperands ts (readOperands ts bs).1 ++ (readOperands ts bs).2
      ∧ serialisables ts (readOperands ts bs).1 = true := by
  induction ts generalizing bs k with
  | nil => simp [readOperands, writeOperands, serialisables]
  | cons t ts ih =>
    simp only [readOperands] at h ⊢
    split at h
    · simp [firstBad] at h
    · rename_i v rest hr
      simp only [firstBad] at h
      split at h
      · rename_i ha
        obtain ⟨e, hs⟩ := writeOperand_read t v bs rest hr
        obtain ⟨e2, hs2⟩ := ih rest (k + 1) h
        dsimp only
        refine ⟨?_, by simp [serialisables, hs ha, hs2]⟩
        conv_lhs => rw [e, e2]
        simp [writeOperands]
      · cases h

/-- A tuple that can be serialised passes the operand check (R89). -/
theorem firstBad_of_serialisables (ts : List OperandType) (vs : List Operand) (k : Nat)
    (h : serialisables ts vs = true) : firstBad k ts vs = none := by
  induction ts generalizing vs k with
  | nil => cases vs <;> simp_all [serialisables, firstBad]
  | cons t ts ih =>
    cases vs with
    | nil => simp [serialisables] at h
    | cons v vs =>
      simp only [serialisables, Bool.and_eq_true] at h
      have : t.admits v = true := by
        have h1 := h.1
        cases v <;> simp_all [serialisable]
      simp [firstBad, this, ih vs (k + 1) h.2]

/-- A byte as a `u1` operand, and a flag back from it. -/
theorem decide_ofFlag (b : Bool) : decide ((if b then 1 else 0) = 1) = b := by cases b <;> rfl

end Sys2Proof
end

