-- ==== Sys2Proof/Laws/Framer.lean ====
section
/-! SUPPORT. The framer's loop: one induction principle with a premise for each way a pass can go (R172 to R177), and what
follows from it for every FEED. -/

namespace Sys2Proof.Machine

/-- What steps a and b discard holds no magic byte (R173). -/
theorem dropToMagic_split (r : Bytes) : ∃ pre, r = pre ++ dropToMagic r ∧ (0x55 : Byte) ∉ pre := by
  refine ⟨r.takeWhile (· ≠ Config.magic), List.takeWhile_append_dropWhile.symm, fun h => ?_⟩
  simpa [Config.magic] using List.mem_takeWhile_imp h

/-- The working string is not longer after steps a and b. -/
theorem dropToMagic_length_le (r : Bytes) : (dropToMagic r).length ≤ r.length :=
  (List.dropWhile_suffix _).length_le

/-- What is left after step b starts with the magic byte (R173). -/
theorem byteAt_dropToMagic (r : Bytes) (h : dropToMagic r ≠ []) : byteAt (dropToMagic r) 0 = 0x55 := by
  induction r with
  | nil => exact absurd rfl h
  | cons a r ih =>
    by_cases ha : a = Config.magic
    · simp [dropToMagic, ha, byteAt, Config.magic]
    · have e : dropToMagic (a :: r) = dropToMagic r := by simp [dropToMagic, ha]
      rw [e] at h ⊢
      exact ih h

/-- Steps a and b on a string that starts with the magic byte change nothing. -/
theorem dropToMagic_of_magic (r : Bytes) (h : r ≠ []) (h0 : byteAt r 0 = 0x55) : dropToMagic r = r := by
  cases r with
  | nil => exact absurd rfl h
  | cons a r =>
    have : a = 0x55 := by simpa [byteAt] using h0
    simp [dropToMagic, Config.magic, this]

/-- Steps a and b remove bytes that are not the magic byte. -/
theorem dropToMagic_append (g r : Bytes) (h : (0x55 : Byte) ∉ g) : dropToMagic (g ++ r) = dropToMagic r := by
  induction g with
  | nil => rfl
  | cons a g ih =>
    have ha : a ≠ Config.magic := fun e => h (by simp [e, Config.magic])
    rw [← ih fun c => h (List.mem_cons_of_mem _ c)]
    simp [dropToMagic, ha]

/-- A byte of a prefix is the byte of the whole. -/
theorem byteAt_take (f : Bytes) (n i : Nat) (h : i < n) : byteAt (f.take n) i = byteAt f i := by
  simp [byteAt, List.getD, h]

/-- A header of at least 3 bytes decides the length field (R84). -/
theorem headerLength_take (f : Bytes) (n : Nat) (h : 3 ≤ n) : headerLength (f.take n) = headerLength f := by
  unfold headerLength
  rw [byteAt_take f n 1 (by omega), byteAt_take f n 2 (by omega)]

/-- What step f slices is a candidate. -/
theorem isCandidate_take (r : Bytes) (h0 : byteAt r 0 = 0x55) (h1 : 13 ≤ headerLength r)
    (h2 : headerLength r ≤ r.length) : isCandidate (r.take (headerLength r)) = true := by
  have h3 : headerLength (r.take (headerLength r)) = headerLength r := headerLength_take r _ (by omega)
  have h4 : byteAt (r.take (headerLength r)) 0 = 0x55 := by rw [byteAt_take r _ 0 (by omega), h0]
  simp only [isCandidate, h3, h4, List.length_take, Nat.min_eq_left h2]
  simpa using h1

/-- The loop's induction principle: a relation between the working string, the state and the loop's answer holds of the
loop if it holds at each exit and passes through each pass that goes on. -/
theorem feedLoop_induct (p : Config.Params) {M : Bytes → State → Bytes × State → Prop}
    (short : ∀ r s, r.length < 13 → M r s (r, s))
    (noMagic : ∀ r s, 13 ≤ r.length → dropToMagic r = [] → M r s ([], s))
    (fewLeft : ∀ r s, 13 ≤ r.length → dropToMagic r ≠ [] → (dropToMagic r).length < 4 → M r s (dropToMagic r, s))
    (spurious : ∀ r s a, 13 ≤ r.length → dropToMagic r ≠ [] → 4 ≤ (dropToMagic r).length →
      headerLength (dropToMagic r) < 13 → M ((dropToMagic r).drop 1) s a → M r s a)
    (incomplete : ∀ r s, 13 ≤ r.length → dropToMagic r ≠ [] → 4 ≤ (dropToMagic r).length →
      13 ≤ headerLength (dropToMagic r) → (dropToMagic r).length < headerLength (dropToMagic r) →
      M r s (dropToMagic r, s))
    (candidate : ∀ r s a, 13 ≤ r.length → dropToMagic r ≠ [] → 13 ≤ headerLength (dropToMagic r) →
      headerLength (dropToMagic r) ≤ (dropToMagic r).length →
      M ((dropToMagic r).drop (headerLength (dropToMagic r)))
        (s.deliver p ((dropToMagic r).take (headerLength (dropToMagic r)))) a → M r s a) :
    ∀ n r s, r.length ≤ n → M r s (feedLoop p n r s) := by
  intro n
  induction n with
  | zero => intro r s h; exact short r s (by omega)
  | succ n ih =>
    intro r s h
    have hd := dropToMagic_length_le r
    have hl := headerLength_le (dropToMagic r)
    simp only [feedLoop, frameLength_eq, Config.minLen, Config.srcMaxLen]
    split
    · exact short r s ‹_›
    · split
      · exact noMagic r s (by omega) ‹_›
      · split
        · exact fewLeft r s (by omega) ‹_› ‹_›
        · split
          · exact spurious r s _ (by omega) ‹_› (by omega) (by omega)
              (ih _ _ (by rw [List.length_drop]; omega))
          · split
            · exact incomplete r s (by omega) ‹_› (by omega) (by omega) ‹_›
            · exact candidate r s _ (by omega) ‹_› (by omega) (by omega)
                (ih _ _ (by rw [List.length_drop]; omega))

/-- Fuel beyond the working string's length changes nothing (entry 13). -/
theorem feedLoop_fuel (p : Config.Params) (n m : Nat) (r : Bytes) (s : State) (hn : r.length ≤ n) (hm : r.length ≤ m) :
    feedLoop p n r s = feedLoop p m r s := by
  refine feedLoop_induct p (M := fun r s a => ∀ m, r.length ≤ m → a = feedLoop p m r s)
    ?_ ?_ ?_ ?_ ?_ ?_ n r s hn m hm
  all_goals intro r s
  all_goals have hd := dropToMagic_length_le r
  all_goals have hl := headerLength_le (dropToMagic r)
  · intro h m hm
    cases m <;> simp [feedLoop, Config.minLen, h]
  · intro h h1 m hm
    obtain ⟨m, rfl⟩ : ∃ k, m = k + 1 := ⟨m - 1, by omega⟩
    simp [feedLoop, Config.minLen, Nat.not_lt.mpr h, h1]
  · intro h h1 h2 m hm
    obtain ⟨m, rfl⟩ : ∃ k, m = k + 1 := ⟨m - 1, by omega⟩
    simp [feedLoop, Config.minLen, Nat.not_lt.mpr h, h1, h2]
  · intro a h h1 h2 h3 ih m hm
    obtain ⟨m, rfl⟩ : ∃ k, m = k + 1 := ⟨m - 1, by omega⟩
    simp only [feedLoop, Config.minLen, if_neg (Nat.not_lt.mpr h), if_neg h1, if_neg (Nat.not_lt.mpr h2), frameLength_eq,
      h3, true_or, if_true]
    exact ih m (by rw [List.length_drop]; omega)
  · intro h h1 h2 h3 h4 m hm
    obtain ⟨m, rfl⟩ : ∃ k, m = k + 1 := ⟨m - 1, by omega⟩
    have h5 : ¬ (headerLength (dropToMagic r) < 13 ∨ 1024 < headerLength (dropToMagic r)) := by omega
    simp only [feedLoop, Config.minLen, Config.srcMaxLen, frameLength_eq, if_neg (Nat.not_lt.mpr h), if_neg h1,
      if_neg (Nat.not_lt.mpr h2), if_neg h5, if_pos h4]
  · intro a h h1 h2 h3 ih m hm
    obtain ⟨m, rfl⟩ : ∃ k, m = k + 1 := ⟨m - 1, by omega⟩
    have h5 : ¬ (headerLength (dropToMagic r) < 13 ∨ 1024 < headerLength (dropToMagic r)) := by omega
    have h6 : ¬ (dropToMagic r).length < 4 := by omega
    simp only [feedLoop, Config.minLen, Config.srcMaxLen, frameLength_eq, if_neg (Nat.not_lt.mpr h), if_neg h1,
      if_neg h6, if_neg h5, if_neg (Nat.not_lt.mpr h3)]
    exact ih m (by rw [List.length_drop]; omega)

/-- The loop keeps all but the session's state and the events. -/
theorem feedLoop_frame (p : Config.Params) (n : Nat) (r : Bytes) (s : State) (h : r.length ≤ n) :
    FramerFrame s (feedLoop p n r s).2 := by
  refine feedLoop_induct p (M := fun _ s a => FramerFrame s a.2) ?_ ?_ ?_ ?_ ?_ ?_ n r s h
  · intros; exact .refl _
  · intros; exact .refl _
  · intros; exact .refl _
  · intros; assumption
  · intros; exact .refl _
  · intro r s a _ _ _ _ ih; exact (deliver_frame p s _).trans ih

/-- A pass on a working string that starts with a complete candidate (R177). -/
theorem feedLoop_candidate (p : Config.Params) (n m : Nat) (f r : Bytes) (s : State) (hf : isCandidate f = true)
    (hn : (f ++ r).length ≤ n) (hm : r.length ≤ m) :
    feedLoop p n (f ++ r) s = feedLoop p m r (s.deliver p f) := by
  have hf' := hf
  simp only [isCandidate, Bool.and_eq_true, beq_iff_eq, decide_eq_true_eq] at hf
  obtain ⟨⟨h0, h1⟩, h2⟩ := hf
  have hne : f ++ r ≠ [] := by intro h; simp at h; simp [h.1] at h1
  have hb : ∀ i, i < f.length → byteAt (f ++ r) i = byteAt f i := by
    intro i hi; simp [byteAt, List.getD, List.getElem?_append_left hi]
  have hL : headerLength (f ++ r) = f.length := by
    rw [← h2]; unfold headerLength; rw [hb 1 (by omega), hb 2 (by omega)]
  have hd : dropToMagic (f ++ r) = f ++ r := dropToMagic_of_magic _ hne (by rw [hb 0 (by omega), h0])
  have hl := headerLength_le (f ++ r)
  have hlen : (f ++ r).length = f.length + r.length := List.length_append
  obtain ⟨n, rfl⟩ : ∃ k, n = k + 1 := ⟨n - 1, by omega⟩
  have h5 : ¬ (f.length < 13 ∨ 1024 < f.length) := by omega
  have h6 : ¬ (f ++ r).length < 13 := by omega
  have h7 : ¬ (f ++ r).length < 4 := by omega
  have h8 : ¬ (f ++ r).length < f.length := by omega
  simp only [feedLoop, Config.minLen, Config.srcMaxLen, frameLength_eq, hd, hL, if_neg h6, if_neg hne, if_neg h7,
    if_neg h5, if_neg h8, List.take_left, List.drop_left]
  exact feedLoop_fuel p n m r _ (by omega) hm

/-- Bytes without a magic byte before enough others are discarded (R173). -/
theorem feedLoop_garbage (p : Config.Params) (n m : Nat) (g r : Bytes) (s : State) (hg : (0x55 : Byte) ∉ g)
    (hr : 13 ≤ r.length) (hn : (g ++ r).length ≤ n) (hm : r.length ≤ m) :
    feedLoop p n (g ++ r) s = feedLoop p m r s := by
  have hlen : (g ++ r).length = g.length + r.length := List.length_append
  rw [feedLoop_fuel p n (n + m + 1) _ s hn (by omega), feedLoop_fuel p m (n + m + 1) _ s hm (by omega)]
  have h6 : ¬ (g ++ r).length < Config.minLen := by simp only [Config.minLen]; omega
  have h7 : ¬ r.length < Config.minLen := by simp only [Config.minLen]; omega
  rw [feedLoop, feedLoop, dropToMagic_append g r hg, if_neg h6, if_neg h7]

/-- The remainder's shape after the loop (R183). -/
theorem feedLoop_remainder (p : Config.Params) (n : Nat) (r : Bytes) (s : State) (h : r.length ≤ n) :
    remainderShape (feedLoop p n r s).1 = true ∧ (feedLoop p n r s).1.length ≤ r.length := by
  refine feedLoop_induct p (M := fun r _ a => remainderShape a.1 = true ∧ a.1.length ≤ r.length)
    ?_ ?_ ?_ ?_ ?_ ?_ n r s h
  all_goals intro r s
  all_goals have hd := dropToMagic_length_le r
  all_goals have hl := headerLength_le (dropToMagic r)
  · intro h; exact ⟨by simp [remainderShape, h], le_refl _⟩
  · intro h h1; exact ⟨by simp [remainderShape], by simp⟩
  · intro h h1 h2; exact ⟨by simp [remainderShape, show (dropToMagic r).length < 13 by omega], hd⟩
  · intro a h h1 h2 h3 ih
    exact ⟨ih.1, le_trans ih.2 (by rw [List.length_drop]; omega)⟩
  · intro h h1 h2 h3 h4
    refine ⟨?_, hd⟩
    simp [remainderShape, byteAt_dropToMagic r h1, frameLength_eq, h3, h4, hl]
  · intro a h h1 h2 h3 ih
    exact ⟨ih.1, le_trans ih.2 (by rw [List.length_drop]; omega)⟩

/-! What FEED may discard and keep -/

@[simp] theorem discards_nil (fresh : Bool) (rest : Bytes) : discards fresh [] rest = true := rfl

/-- Steps a and b discard bytes that are not the magic byte, in a pass that found 13 bytes in hand (R172, R173). -/
theorem discards_garbage (g rest : Bytes) (fresh : Bool) (hg : (0x55 : Byte) ∉ g) (h : 13 ≤ (g ++ rest).length) :
    discards fresh g rest = true := by
  suffices key : ∀ fresh : Bool, (fresh = true → 13 ≤ (g ++ rest).length) → discards fresh g rest = true from
    key fresh fun _ => h
  clear h
  induction g with
  | nil => intros; rfl
  | cons a g ih =>
    intro fresh h
    have ha : a ≠ 0x55 := fun e => hg (by simp [e])
    have hr := ih (fun c => hg (List.mem_cons_of_mem _ c)) false (by simp)
    simp only [discards, if_neg ha, hr, Bool.and_true]
    cases fresh
    · rfl
    · simpa using h rfl

/-- A pass that ends in step d discards the bytes before the magic byte and that byte; then a new pass starts (R175). -/
theorem discards_spurious (g d rest : Bytes) (fresh : Bool) (hg : (0x55 : Byte) ∉ g)
    (h : 13 ≤ (g ++ 0x55 :: d ++ rest).length) (h4 : 4 ≤ (0x55 :: d ++ rest).length)
    (hl : headerLength (0x55 :: d ++ rest) < 13) (hd : discards true d rest = true) :
    discards fresh (g ++ 0x55 :: d) rest = true := by
  suffices key : ∀ fresh : Bool, (fresh = true → 13 ≤ (g ++ 0x55 :: d ++ rest).length) →
      discards fresh (g ++ 0x55 :: d) rest = true from key fresh fun _ => h
  clear h
  induction g with
  | nil =>
    intro fresh h
    have h5 : (!fresh || decide (13 ≤ (0x55 :: d ++ rest).length)) = true := by
      cases fresh
      · rfl
      · simpa using h rfl
    simp only [List.nil_append, discards, h5, if_true, decide_eq_true h4, decide_eq_true hl, hd, Bool.and_true]
  | cons a g ih =>
    intro fresh h
    have ha : a ≠ 0x55 := fun e => hg (by simp [e])
    have hr := ih (fun c => hg (List.mem_cons_of_mem _ c)) false (by simp)
    simp only [List.cons_append, discards, if_neg ha, hr, Bool.and_true]
    cases fresh
    · rfl
    · simpa using h rfl

@[simp] theorem passStarts_nil : passStarts [] = true := rfl

/-- After a discarded magic byte the next pass starts. -/
theorem passStarts_append_magic (g d : Bytes) : passStarts (g ++ 0x55 :: d) = passStarts d := by
  rcases List.eq_nil_or_concat d with rfl | ⟨d, b, rfl⟩
  · simp [passStarts]
  · rw [show g ++ 0x55 :: d.concat b = (g ++ 0x55 :: d) ++ [b] by simp, List.concat_eq_append]
    simp only [passStarts, List.getLast?_append, List.getLast?_singleton, Option.some_or]

/-- No pass starts after bytes that steps a and b discarded. -/
theorem passStarts_garbage (g : Bytes) (hg : (0x55 : Byte) ∉ g) (h : g ≠ []) : passStarts g = false := by
  have hm := List.getLast_mem h
  have : g.getLast h ≠ 0x55 := fun e => hg (e ▸ hm)
  rw [passStarts, List.getLast?_eq_some_getLast h]
  exact beq_eq_false_iff_ne.mpr this

/-- The event of a candidate is what its decode says (R179). -/
theorem surfacedAs_eq (strict : Bool) (f : Bytes) (h : isCandidate f = true) :
    surfacedAs strict f = match decodeCore f strict with
      | .ok r => .frameOut r
      | .error _ => .checksumMismatch f (checksumReport f) := by
  rw [decodeCore_candidate f strict h, surfacedAs]
  split <;> rfl

end Sys2Proof.Machine
end

