-- ==== Sys2Proof/Laws/PerInstr.lean ====
section
/-! SUPPORT. Statements about every command, one lemma per constructor. -/

namespace Sys2Proof.Laws

/-- The family: a well-formed command's operand tuple can be serialised, and the operand check builds the command back from
it (30_encoding.md R89, R91, R102). -/
def TupleBuilds.Statement (i : Instr) : Prop :=
  (i.wf = true → serialisables i.opcode.shape i.operands = true) ∧ i.opcode.build i.operands = some i

theorem TupleBuilds.crc (width : Byte) (poly init xorOut : Half) (refIn refOut : Bool) (data : Bytes) :
    TupleBuilds.Statement (.crc width poly init xorOut refIn refOut data) := by
  have := width.isLt; have := poly.isLt; have := init.isLt; have := xorOut.isLt
  refine ⟨fun h => ?_, ?_⟩
  · cases refIn <;> cases refOut <;>
      simp_all [Instr.wf, Instr.opcode, Instr.operands, Opcode.shape, serialisables, serialisable, OperandType.admits,
        ofFlag]
  · simp [Instr.opcode, Instr.operands, Opcode.build, ofFlag]

theorem TupleBuilds.crc8 (data : Bytes) : TupleBuilds.Statement (.crc8 data) :=
  ⟨fun h => by simpa [Instr.wf, Instr.opcode, Instr.operands, Opcode.shape, serialisables, serialisable,
    OperandType.admits] using h, rfl⟩

theorem TupleBuilds.crc16 (data : Bytes) : TupleBuilds.Statement (.crc16 data) :=
  ⟨fun h => by simpa [Instr.wf, Instr.opcode, Instr.operands, Opcode.shape, serialisables, serialisable,
    OperandType.admits] using h, rfl⟩

theorem TupleBuilds.seqReset (value : Half) : TupleBuilds.Statement (.seqReset value) := by
  have := value.isLt
  exact ⟨fun _ => by simpa [Instr.opcode, Instr.operands, Opcode.shape, serialisables, serialisable,
    OperandType.admits] using this, by simp [Instr.opcode, Instr.operands, Opcode.build]⟩

theorem TupleBuilds.seqPeek : TupleBuilds.Statement .seqPeek := ⟨fun _ => rfl, rfl⟩

theorem TupleBuilds.encode (target : Half) (flags commandSet commandId : Byte) (payload : Bytes) :
    TupleBuilds.Statement (.encode target flags commandSet commandId payload) := by
  have := target.isLt; have := flags.isLt; have := commandSet.isLt; have := commandId.isLt
  exact ⟨fun h => by simp_all [Instr.wf, Instr.opcode, Instr.operands, Opcode.shape, serialisables, serialisable,
    OperandType.admits], by simp [Instr.opcode, Instr.operands, Opcode.build]⟩

theorem TupleBuilds.decode (data : Bytes) : TupleBuilds.Statement (.decode data) :=
  ⟨fun h => by simpa [Instr.wf, Instr.opcode, Instr.operands, Opcode.shape, serialisables, serialisable,
    OperandType.admits] using h, rfl⟩

theorem TupleBuilds.setStrict (value : Bool) : TupleBuilds.Statement (.setStrict value) := by
  cases value <;> exact ⟨fun _ => rfl, rfl⟩

theorem TupleBuilds.feed (chunk : Bytes) : TupleBuilds.Statement (.feed chunk) :=
  ⟨fun h => by simpa [Instr.wf, Instr.opcode, Instr.operands, Opcode.shape, serialisables, serialisable,
    OperandType.admits] using h, rfl⟩

theorem TupleBuilds.pairStart (ident pin : Bytes) : TupleBuilds.Statement (.pairStart ident pin) :=
  ⟨fun h => by simpa [Instr.wf, Instr.opcode, Instr.operands, Opcode.shape, serialisables, serialisable,
    OperandType.admits] using h, rfl⟩

theorem TupleBuilds.pairWriteDone (ok : Bool) : TupleBuilds.Statement (.pairWriteDone ok) := by
  cases ok <;> exact ⟨fun _ => rfl, rfl⟩

theorem TupleBuilds.pairSettleDone : TupleBuilds.Statement .pairSettleDone := ⟨fun _ => rfl, rfl⟩

theorem TupleBuilds.pairPollTick : TupleBuilds.Statement .pairPollTick := ⟨fun _ => rfl, rfl⟩

theorem TupleBuilds.pairRx (data : Bytes) : TupleBuilds.Statement (.pairRx data) :=
  ⟨fun h => by simpa [Instr.wf, Instr.opcode, Instr.operands, Opcode.shape, serialisables, serialisable,
    OperandType.admits] using h, rfl⟩

theorem TupleBuilds.pairCancel : TupleBuilds.Statement .pairCancel := ⟨fun _ => rfl, rfl⟩

theorem TupleBuilds.pairStatus : TupleBuilds.Statement .pairStatus := ⟨fun _ => rfl, rfl⟩

theorem TupleBuilds.connReset : TupleBuilds.Statement .connReset := ⟨fun _ => rfl, rfl⟩

end Sys2Proof.Laws
end

