-- ==== Sys2Proof/Tests/Slice0.lean ====
section
/-! SUPPORT. The model's own tests. Expected values stand in spec/: the vectors and programs of 95_test_vectors.md (their
names are given), the examples and corner cases of the rules. Then, for each statement with hypotheses, a state and operands
that meet them. -/

namespace Sys2Proof.Tests

open Sys2Proof Sys2Proof.Machine

/-! States and parameters to start from -/

/-- The example configuration of 95_test_vectors.md. -/
def exampleParams : Config.Params where
  seqInit := 0x0000
  accCap := none
  wifiCmdSet := 0x07
  pinSetCmdId := 0x45
  approvedCmdId := 0x46
  trigger := (0x01, 0x00)
  pairTarget := 0x0702
  settleDelay := 0

/-- A legal state with nothing in progress. -/
def calm : State where
  seq := 0x0100
  strict := false
  acc := []
  pstate := .idle
  phase := .none
  polls := 0
  paired := false
  ident := []
  pin := []
  port := []
  out := { response := none, events := [], requests := [] }

/-- A handshake in the given state. -/
def session (pstate : PState) (phase : Phase) (polls : BitVec 8) : State :=
  { calm with pstate := pstate, phase := phase, polls := polls, ident := [0x41, 0x42, 0x43], pin := [0x31, 0x32, 0x33, 0x34] }

/-- The state a command leaves. -/
def after (i : Instr) (s : State) : State :=
  match exec i s with
  | .next t => t
  | .fault _ => s
  | .refused _ => s

/-- The response a command gives. -/
def answer (i : Instr) (s : State) : Option Response := (after i s).out.response

/-- The frame `Z100`. -/
def z100 : Bytes := [0x55, 0x0D, 0x04, 0x33, 0x02, 0x04, 0x01, 0x00, 0x40, 0x04, 0x05, 0x0A, 0xDE]
/-- The frame `Z0`. -/
def z0 : Bytes := [0x55, 0x0D, 0x04, 0x33, 0x02, 0x04, 0x00, 0x00, 0x40, 0x04, 0x05, 0x4E, 0xD5]
/-- `BADZ0`: its CRC-16 is wrong. -/
def badz0 : Bytes := [0x55, 0x0D, 0x04, 0x33, 0x02, 0x04, 0x00, 0x00, 0x40, 0x04, 0x05, 0x4F, 0xD5]
/-- `Z0` with byte 3 wrong. -/
def badHead : Bytes := [0x55, 0x0D, 0x04, 0xCC, 0x02, 0x04, 0x00, 0x00, 0x40, 0x04, 0x05, 0x4E, 0xD5]
/-- The frame `P7`. -/
def p7 : Bytes :=
  [0x55, 0x14, 0x04, 0x6D, 0x02, 0x04, 0x01, 0x01, 0x40, 0x04, 0x05, 0x01, 0x02, 0x03, 0x04, 0x05, 0x06, 0x07, 0x89, 0x69]
/-- The frame `SPUR`, with a header in its payload. -/
def spur : Bytes :=
  [0x55, 0x11, 0x04, 0x92, 0x02, 0x04, 0x01, 0x02, 0x40, 0x04, 0x05, 0x55, 0x0D, 0x04, 0x33, 0xBB, 0xA2]
/-- The frame `CRED0`. -/
def cred0 : Bytes :=
  [0x55, 0x16, 0x04, 0xFC, 0x02, 0x07, 0x00, 0x00, 0x40, 0x07, 0x45, 0x03, 0x41, 0x42, 0x43, 0x04, 0x31, 0x32, 0x33, 0x34,
    0x66, 0xAE]
/-- The frame `ST02`. -/
def st02 : Bytes := [0x55, 0x0F, 0x04, 0xA2, 0x07, 0x02, 0x00, 0x00, 0xC0, 0x07, 0x45, 0x00, 0x02, 0x3B, 0xE6]
/-- The frame `ST01S`. -/
def st01s : Bytes := [0x55, 0x0E, 0x04, 0x66, 0x07, 0x02, 0x00, 0x02, 0xC0, 0x07, 0x45, 0x01, 0x32, 0x72]
/-- The frame `APP1`. -/
def app1 : Bytes := [0x55, 0x0E, 0x04, 0x66, 0x07, 0x02, 0x00, 0x01, 0x00, 0x07, 0x46, 0x01, 0x4F, 0x7E]
/-- The string "123456789". -/
def digits : Bytes := [0x31, 0x32, 0x33, 0x34, 0x35, 0x36, 0x37, 0x38, 0x39]

/-! WellFormed: one byte over the 2-byte length is refused, for each `bytes` operand (R102) -/

theorem fitsPrefix_replicate (n : Nat) (b : Byte) : fitsPrefix (List.replicate n b) = decide (n ≤ 65535) := by
  simp [fitsPrefix]

theorem test_wf_refuses_crc : (Instr.crc 8 0x31 0xEE 0 true true (List.replicate 65536 0)).wf = false := by
  simp only [Instr.wf, fitsPrefix_replicate]; decide
theorem test_wf_refuses_crc8 : (Instr.crc8 (List.replicate 65536 0)).wf = false := by
  simp only [Instr.wf, fitsPrefix_replicate]; decide
theorem test_wf_refuses_crc16 : (Instr.crc16 (List.replicate 65536 0)).wf = false := by
  simp only [Instr.wf, fitsPrefix_replicate]; decide
theorem test_wf_refuses_encode : (Instr.encode 0 0 0 0 (List.replicate 65536 0)).wf = false := by
  simp only [Instr.wf, fitsPrefix_replicate]; decide
theorem test_wf_refuses_decode : (Instr.decode (List.replicate 65536 0)).wf = false := by
  simp only [Instr.wf, fitsPrefix_replicate]; decide
theorem test_wf_refuses_feed : (Instr.feed (List.replicate 65536 0)).wf = false := by
  simp only [Instr.wf, fitsPrefix_replicate]; decide
theorem test_wf_refuses_pair_start_id : (Instr.pairStart (List.replicate 65536 0) []).wf = false := by
  simp only [Instr.wf, fitsPrefix_replicate]; decide
theorem test_wf_refuses_pair_start_pin : (Instr.pairStart [] (List.replicate 65536 0)).wf = false := by
  simp only [Instr.wf, fitsPrefix_replicate]; decide
theorem test_wf_refuses_pair_rx : (Instr.pairRx (List.replicate 65536 0)).wf = false := by
  simp only [Instr.wf, fitsPrefix_replicate]; decide
theorem test_wf_admits_longest : (Instr.feed (List.replicate 65535 0)).wf = true := by
  simp only [Instr.wf, fitsPrefix_replicate]; decide

/-! Decoding: each command's bytes, written out from R88 and R102 -/

theorem test_decode_crc :
    decode [0x01, 0x10, 0x21, 0x10, 0xFF, 0xFE, 0x34, 0x12, 0x01, 0x00, 0x02, 0x00, 0xAA, 0xBB, 0x11]
      = some (.instr (.crc 16 0x1021 0xFEFF 0x1234 true false [0xAA, 0xBB]), [0x11]) := by decide
theorem test_decode_crc8 : decode [0x02, 0x01, 0x00, 0x55] = some (.instr (.crc8 [0x55]), []) := by decide
theorem test_decode_crc16 : decode [0x03, 0x00, 0x00, 0x36] = some (.instr (.crc16 []), [0x36]) := by decide
theorem test_decode_seq_reset : decode [0x10, 0x02, 0x04] = some (.instr (.seqReset 0x0402), []) := by decide
theorem test_decode_seq_peek : decode [0x11, 0x11] = some (.instr .seqPeek, [0x11]) := by decide
theorem test_decode_encode :
    decode [0x12, 0x02, 0x04, 0x40, 0x06, 0x05, 0x01, 0x00, 0x99]
      = some (.instr (.encode 0x0402 0x40 0x06 0x05 [0x99]), []) := by decide
theorem test_decode_decode : decode [0x13, 0x03, 0x00, 0x55, 0x0D, 0x04] = some (.instr (.decode [0x55, 0x0D, 0x04]), []) := by
  decide
theorem test_decode_set_strict : decode [0x14, 0x00] = some (.instr (.setStrict false), []) := by decide
theorem test_decode_set_strict_2 : decode [0x14, 0x02, 0x11] = some (.malformed 0, [0x11]) := by decide
theorem test_decode_feed : decode [0x20, 0x02, 0x00, 0x55, 0x00] = some (.instr (.feed [0x55, 0x00]), []) := by decide
theorem test_decode_pair_start :
    decode [0x30, 0x01, 0x00, 0x41, 0x02, 0x00, 0x31, 0x32] = some (.instr (.pairStart [0x41] [0x31, 0x32]), []) := by decide
theorem test_decode_pair_write_done : decode [0x31, 0x01] = some (.instr (.pairWriteDone true), []) := by decide
theorem test_decode_pair_settle_done : decode [0x32] = some (.instr .pairSettleDone, []) := by decide
theorem test_decode_pair_poll_tick : decode [0x33] = some (.instr .pairPollTick, []) := by decide
theorem test_decode_pair_rx : decode [0x34, 0x01, 0x00, 0x34] = some (.instr (.pairRx [0x34]), []) := by decide
theorem test_decode_pair_cancel : decode [0x35] = some (.instr .pairCancel, []) := by decide
theorem test_decode_pair_status : decode [0x36] = some (.instr .pairStatus, []) := by decide
theorem test_decode_conn_reset : decode [0xF0] = some (.instr .connReset, []) := by decide
theorem test_decode_illegal : decode [0x37, 0x36] = some (.illegal 0x37, [0x36]) := by decide
theorem test_decode_truncated : decode [0x12, 0x02, 0x04, 0x40] = some (.malformed 2, []) := by decide

/-- Every row of the opcode table, its operand words zero. -/
theorem test_table_words :
    decodeTableWord 8 0x01 = some (.crc 0 0 0 0 false false []) ∧ decodeTableWord 8 0x02 = some (.crc8 [])
      ∧ decodeTableWord 8 0x03 = some (.crc16 []) ∧ decodeTableWord 8 0x10 = some (.seqReset 0)
      ∧ decodeTableWord 8 0x11 = some .seqPeek ∧ decodeTableWord 8 0x12 = some (.encode 0 0 0 0 [])
      ∧ decodeTableWord 8 0x13 = some (.decode []) ∧ decodeTableWord 8 0x14 = some (.setStrict false)
      ∧ decodeTableWord 8 0x20 = some (.feed []) ∧ decodeTableWord 8 0x30 = some (.pairStart [] [])
      ∧ decodeTableWord 8 0x31 = some (.pairWriteDone false) ∧ decodeTableWord 8 0x32 = some .pairSettleDone
      ∧ decodeTableWord 8 0x33 = some .pairPollTick ∧ decodeTableWord 8 0x34 = some (.pairRx [])
      ∧ decodeTableWord 8 0x35 = some .pairCancel ∧ decodeTableWord 8 0x36 = some .pairStatus
      ∧ decodeTableWord 8 0xF0 = some .connReset ∧ decodeTableWord 8 0x15 = none := by decide
theorem test_table_word_with_operands : decodeTableWord 24 0x040210 = some (.seqReset 0x0402) := by decide
theorem test_fetch_word : step (State.reset.withFetchWord 8 0x11) = exec .seqPeek State.reset := rfl

/-! One command each -/

theorem test_crc_ccitt_false : answer (.crc 16 0x1021 0xFFFF 0 false false digits) calm = some (.ok (.u16 0x29B1)) := by
  decide +kernel  -- V-CRC-9
theorem test_crc_ref_out_only : answer (.crc 8 0x31 0xEE 0 false true digits) calm = some (.ok (.u16 0x001F)) := by
  decide +kernel  -- V-CRC-15
theorem test_crc8_head : answer (.crc8 [0x55, 0x0D, 0x04]) calm = some (.ok (.u16 0x0033)) := by
  decide +kernel  -- V-CRC-8
theorem test_crc16_one_byte : answer (.crc16 [0x00]) calm = some (.ok (.u16 0xB7AD)) := by
  decide +kernel  -- V-CRC-5
theorem test_seq_reset : (after (.seqReset 0xFFFF) calm).seq = 0xFFFF := by decide
theorem test_seq_peek : answer .seqPeek calm = some (.ok (.u16 0x0100)) := by decide
theorem test_encode_z100 : answer (.encode 0x0402 0x40 0x04 0x05 []) calm = some (.ok (.bytes z100)) := by
  decide +kernel  -- V-ENC-1
theorem test_encode_wraps :
    (after (.encode 0x0402 0x00 0x04 0x05 []) { calm with seq := 0xFFFF }).seq = 0x0000
      ∧ answer (.encode 0x0402 0x00 0x04 0x05 []) { calm with seq := 0xFFFF }
        = some (.ok (.bytes [0x55, 0x0D, 0x04, 0x33, 0x02, 0x04, 0xFF, 0xFF, 0x00, 0x04, 0x05, 0xB0, 0xE3])) := by
  decide +kernel  -- V-ENC-5
theorem test_decode_record : answer (.decode (z100 ++ [0x99])) calm = some (.ok (.frame
    { magic := 0x55, length := 13, version := 1, headerChecksum := 0x33, sender := 0x02, receiver := 0x04, target := 0x0402,
      sequenceId := 0x0100, flags := 0x40, commandSet := 0x04, commandId := 0x05, payload := [], trailingChecksum := 0xDE0A,
      raw := z100 })) := by decide  -- V-DEC-1, V-DEC-7
theorem test_decode_strict_bad_head : answer (.decode badHead) { calm with strict := true } = some (.decChecksum 3) := by
  decide +kernel  -- V-DEC-12
theorem test_set_strict : (after (.setStrict true) calm).strict = true := by decide
theorem test_feed_resync :
    framesOf (calm.feedChunk exampleParams ([0xAA, 0xBB] ++ z100)).out.events = [fieldsOf z100]
      ∧ (framesOf (calm.feedChunk exampleParams (spur ++ p7.take 9)).out.events).map FrameRecord.raw = [spur]
      ∧ (calm.feedChunk exampleParams (spur ++ p7.take 9)).acc = p7.take 9 := by decide  -- V-FEED-1, V-FEED-4, V-FEED-6
theorem test_feed_offers_before_next :
    ((session .credentialsSent .none 3).feedChunk exampleParams (st02 ++ app1)).out.events
      = [.frameOut (fieldsOf st02), .outcome .pairingRequired, .frameOut (fieldsOf app1), .outcome .paired]
      ∧ ({ session .awaitingApproval .none 3 with acc := app1.take 5 }.feedChunk exampleParams (app1.drop 5)).out.events
        = [.frameOut (fieldsOf app1), .outcome .paired] := by
  decide  -- R62, R258; R299 and program P2 steps 10 and 11
theorem test_feed_capacity :
    overflows { exampleParams with accCap := some 20 } (p7.take 5) (List.replicate 16 0) = true
      ∧ overflows { exampleParams with accCap := some 20 } (p7.take 5) (List.replicate 15 0) = false := by
  decide  -- V-FEED-20
theorem test_pair_start :
    (calm.sendTrigger exampleParams [0x41, 0x42, 0x43] [0x31]).out.requests = [{ channel := .trig, data := [0x01, 0x00] }]
      ∧ (calm.sendTrigger exampleParams [0x41, 0x42, 0x43] [0x31]).phase = .trigWrite := by decide  -- V-PAIR-1
theorem test_pair_start_twice :
    answer (.pairStart [] []) (session .triggerSent .settle 0) = some (.errState .triggerSent .settle) := by decide
theorem test_pair_write_done :
    (after (.pairWriteDone true) (session .triggerSent .credWrite 7)).pstate = .credentialsSent
      ∧ (after (.pairWriteDone true) (session .triggerSent .credWrite 7)).polls = 0 := by decide  -- V-PAIR-4
theorem test_pair_write_failed :
    answer (.pairWriteDone false) (session .triggerSent .trigWrite 0) = some (.errTransport .trigWrite)
      ∧ (after (.pairWriteDone false) (session .triggerSent .trigWrite 0)).pstate = .aborted := by decide  -- T3
theorem test_pair_settle_done :
    ({ session .triggerSent .settle 0 with seq := 0 }.sendCredentials exampleParams).out.requests
      = [{ channel := .cmd, data := cred0 }] := by decide +kernel  -- V-PAIR-3
theorem test_pair_settle_done_early :
    answer .pairSettleDone (session .triggerSent .trigWrite 0) = some (.errState .triggerSent .trigWrite) := by decide
theorem test_pair_poll_tick : (after .pairPollTick (session .credentialsSent .none 29)).pstate = .timedOut := by decide
theorem test_pair_poll_tick_counts : (after .pairPollTick (session .awaitingApproval .none 28)).polls = 29 := by decide
theorem test_pair_rx_required :
    ((session .credentialsSent .none 3).offer exampleParams (fieldsOf st02)).pstate = .awaitingApproval
      ∧ ((session .credentialsSent .none 3).offer exampleParams (fieldsOf st01s)).paired = true
      ∧ ((session .credentialsSent .none 3).offer exampleParams (fieldsOf app1)).pstate = .credentialsSent := by
  decide  -- V-PAIR-5, V-PAIR-7, V-PAIR-10
theorem test_pair_rx_approval :
    ((session .awaitingApproval .none 3).offer exampleParams (fieldsOf app1)).pstate = .paired
      ∧ ((session .awaitingApproval .none 3).offer exampleParams (fieldsOf st01s)).pstate = .awaitingApproval := by
  decide  -- T9, R221
theorem test_pair_cancel :
    (after .pairCancel (session .awaitingApproval .none 3)).out.events = [.outcome (.pairingAborted .cancel)] := by decide
theorem test_pair_cancel_refused : answer .pairCancel (session .paired .none 3) = some (.errState .paired .none) := by decide
theorem test_pair_status :
    answer .pairStatus (session .awaitingApproval .none 3) = some (.ok (.session 3 0 3 0)) := by decide
theorem test_conn_reset :
    (after .connReset { session .timedOut .none 30 with strict := true, acc := [0x55] }).acc = []
      ∧ (after .connReset { session .timedOut .none 30 with strict := true, acc := [0x55] }).strict = true := by decide

/-! What FEED may discard and keep: each step's discard, and what no step discards -/

/-- Step a; steps b and d; step c; bytes kept unexamined. V-FEED-7, V-FEED-19, V-FEED-8. -/
theorem test_accounted_steps :
    accounted [] (List.replicate 13 0) [] = true ∧ accounted [([0x55, 0x0C, 0x04], z100)] [] [] = true
      ∧ accounted [] (List.replicate 12 0) [0x55, 0x14] = true ∧ accounted [] [] (List.replicate 12 0) = true := by decide
/-- A frame is not discarded, 13 bytes without a magic byte are not kept, 12 bytes are not examined. -/
theorem test_accounted_refuses :
    accounted [] z100 [] = false ∧ accounted [] [] (List.replicate 13 0) = false
      ∧ accounted [] (List.replicate 12 0) [] = false ∧ accounted [] (List.replicate 3 0) (List.replicate 10 0) = false := by
  decide

/-! Hypotheses that are met -/

/-- No chunk exceeds a capacity by nothing, whatever the instance's capacity is. -/
theorem witness_capacity_left : ¬ ExceedsCap [] [] := fun ⟨_, _, h⟩ => absurd h (Nat.not_lt_zero _)

theorem witness_DecodeOfEncode : (Instr.pairStart (List.replicate 65535 0) [0x31]).wf = true := by
  simp only [Instr.wf, fitsPrefix_replicate]; decide
theorem witness_EncodeOfDecode : decode [0x10, 0xFF, 0xFF, 0x33] = some (.instr (.seqReset 0xFFFF), [0x33]) := by decide
theorem witness_IllegalOpcodeChangesNothing :
    (0x00 : Byte) ∉ assignedBytes ∧ (0x04 : Byte) ∉ assignedBytes ∧ (0x37 : Byte) ∉ assignedBytes
      ∧ (0xEF : Byte) ∉ assignedBytes ∧ (0xFF : Byte) ∉ assignedBytes := by decide
theorem witness_IllegalOpcodeTakesOneByte :
    { calm with port := [0x15, 0x11] }.port = 0x15 :: [0x11] ∧ (0x15 : Byte) ∉ assignedBytes := by decide
/-- A value out of range, a missing operand, a surplus operand. -/
theorem witness_OperandCheckNamesFirstBad_bad :
    (operandGood .encode [.nat 1, .nat 256] 0 = true ∧ operandGood .encode [.nat 1, .nat 256] 1 = false)
      ∧ (operandGood .seqReset [] 0 = false ∧ 0 < Opcode.seqReset.shape.length)
      ∧ (operandGood .seqPeek [.nat 0] 0 = false ∧ 0 < [Operand.nat 0].length) := by decide
theorem witness_OperandCheckNamesFirstBad_good :
    [Operand.nat 65535].length = Opcode.seqReset.shape.length
      ∧ ∀ j < Opcode.seqReset.shape.length, operandGood .seqReset [.nat 65535] j = true := by decide
theorem witness_TruncatedStreamIsOperandError :
    (Instr.setStrict true).wf = true ∧ encode (.setStrict true) = [0x14] ++ [0x01]
      ∧ { calm with port := [0x14] }.port = [0x14] := by decide
theorem witness_FlagByteOutOfRangeIsOperandError :
    (2 ≤ (0x02 : Byte).toNat ∧ { calm with port := [0x14, 0x02, 0x11] }.port = 0x14 :: 0x02 :: [0x11])
      ∧ (2 ≤ (0xFF : Byte).toNat ∧ { calm with port := [0x31, 0xFF] }.port = 0x31 :: 0xFF :: [])
      ∧ [(0xAA : Byte)].length = (0x01 : Byte).toNat + 256 * (0x00 : Byte).toNat
      ∧ { calm with port := [0x01, 8, 0, 0, 0, 0, 0, 0, 0x02, 0, 1, 0, 0xAA, 0x11] }.port
        = [0x01, 8, 0, 0, 0, 0, 0, 0, 0x02, 0, 1, 0] ++ [0xAA] ++ [0x11]
      ∧ (0x01 : Byte).toNat < 2 ∧ 2 ≤ (0xFF : Byte).toNat
      ∧ { calm with port := [0x01, 8, 0, 0, 0, 0, 0, 0, 0x01, 0xFF, 1, 0, 0xAA] }.port
        = [0x01, 8, 0, 0, 0, 0, 0, 0, 0x01, 0xFF, 1, 0] ++ [0xAA] ++ [] := by decide
theorem witness_StepRunsDecodedCommand :
    decode { calm with port := [0x11, 0x33] }.port = some (.instr .seqPeek, [0x33]) := by decide
theorem witness_StepRunsEncodedCommand :
    (Instr.feed [0x55]).wf = true ∧ { calm with port := [0x20, 0x01, 0x00, 0x55, 0x33] }.port
      = encode (.feed [0x55]) ++ [0x33] := by decide
theorem witness_IdleHoldsState : calm.port = [] := rfl
theorem witness_ErrorsHaveNoEffect :
    (∃ t, exec (.crc 12 0 0 0 false false []) calm = .next t ∧ t.out.response = some (.errParam .width))
      ∧ ∃ t, exec (.pairWriteDone false) (session .triggerSent .credWrite 0) = .next t
        ∧ t.out.response = some (.errTransport .credWrite) := ⟨⟨_, rfl, rfl⟩, ⟨_, rfl, rfl⟩⟩
theorem witness_OnlyListedCommandsWrite : ∃ t, exec .seqPeek calm = .next t := ⟨_, rfl⟩
/-- The smallest wrong value of each parameter, the ones before it the largest right ones. -/
theorem witness_CrcParameterErrors :
    ((0 : Byte) ≠ 8 ∧ (0 : Byte) ≠ 16) ∧ 256 ≤ (0x100 : Half).toNat
      ∧ ((0xFF : Half).toNat < 256 ∧ 256 ≤ (0x100 : Half).toNat)
      ∧ ((0xFF : Half).toNat < 256 ∧ (0xFF : Half).toNat < 256 ∧ 256 ≤ (0x100 : Half).toNat) := by decide
/-- Commands after the SET_STRICT, one of which empties ACC, and a frame with a wrong checksum. -/
theorem witness_SetStrictGovernsDecode :
    (∀ v, Instr.setStrict v ∉ [Instr.seqPeek, .connReset]) ∧ isCandidate badz0 = true ∧ reportOf badz0 ≠ 0
      ∧ (∃ outs u, runCommands [.seqPeek, .connReset] (after (.setStrict true) calm) = some (outs, u) ∧ u.acc = []) :=
  ⟨by decide, by decide, by decide +kernel, ⟨_, _, rfl, rfl⟩⟩
/-- The longest payload ENCODE takes; it serves EncodedFrameIsValid and DecodeOfEncodedFrame too. -/
theorem witness_EncodeBuildsTheFrame_fits : (List.replicate 1010 (0 : Byte)).length ≤ 1010 := by
  rw [List.length_replicate]
/-- The shortest payload ENCODE refuses; it serves EncodeRefusesLongPayload too. -/
theorem witness_EncodeBuildsTheFrame_long : 1010 < (List.replicate 1011 (0 : Byte)).length := by
  rw [List.length_replicate]; decide
theorem witness_EncodesNumberSuccessively :
    ∀ j ∈ [((0x0402 : Half), (0x40 : Byte), (0x04 : Byte), (0x05 : Byte), ([] : Bytes)), (1, 2, 3, 4, [0x55])],
      j.2.2.2.2.length ≤ 1010 := by decide
/-- V-DEC-2, V-DEC-3, V-DEC-4, V-DEC-6. -/
theorem witness_DecodeErrorsInOrder :
    (z100.take 12).length < 13
      ∧ (13 ≤ (0x54 :: z100.drop 1).length ∧ byteAt (0x54 :: z100.drop 1) 0 ≠ 0x55)
      ∧ (13 ≤ ([0x55, 0x0C, 0x04] ++ List.replicate 10 0).length
        ∧ byteAt ([0x55, 0x0C, 0x04] ++ List.replicate 10 0) 0 = 0x55
        ∧ headerLength ([0x55, 0x0C, 0x04] ++ List.replicate 10 0) < 13)
      ∧ (13 ≤ (p7.take 19).length ∧ byteAt (p7.take 19) 0 = 0x55 ∧ 13 ≤ headerLength (p7.take 19)
        ∧ (p7.take 19).length < headerLength (p7.take 19)) := by decide
theorem witness_DecodeReturnsTheRecord_permissive :
    13 ≤ z0.length ∧ byteAt z0 0 = 0x55 ∧ 13 ≤ headerLength z0 ∧ headerLength z0 ≤ z0.length ∧ calm.strict = false := by decide
theorem witness_DecodeReturnsTheRecord_strict :
    headerLength (z0 ++ [0x99]) ≤ (z0 ++ [0x99]).length ∧ reportOf ((z0 ++ [0x99]).take (headerLength (z0 ++ [0x99]))) = 0 := by
  decide +kernel
theorem witness_StrictDecodeReportsChecksums :
    13 ≤ badz0.length ∧ byteAt badz0 0 = 0x55 ∧ 13 ≤ headerLength badz0 ∧ headerLength badz0 ≤ badz0.length
      ∧ { calm with strict := true }.strict = true ∧ reportOf (badz0.take (headerLength badz0)) = 2
      ∧ reportOf (badHead.take (headerLength badHead)) = 3 := by decide +kernel
theorem witness_PermissiveDecodeAccepts : ∃ r, decodeCore z0 false = .ok r := ⟨_, rfl⟩
theorem witness_FeedKeepsFewBytes : ({ calm with acc := [0x55, 0x14] }.acc ++ List.replicate 10 (0 : Byte)).length < 13 := by
  decide
theorem witness_FeedResynchronises :
    calm.acc = [] ∧ calm.strict = false
      ∧ ∀ x ∈ [(([0xAA, 0xBB] : Bytes), z100), ([], spur)], (0x55 : Byte) ∉ x.1 ∧ isCandidate x.2 = true := by decide
/-- The first and the last place to cut. -/
theorem witness_FeedReassemblesSplitFrame :
    calm.acc = [] ∧ calm.strict = false ∧ isCandidate p7 = true ∧ 0 < p7.length ∧ 19 < p7.length := by decide
/-- V-FEED-9 and V-FEED-19: lengths 0 and 12. -/
theorem witness_FeedDropsSpuriousMagic :
    (calm.acc ++ ([0x55, 0x0C, 0x04] ++ z100) = 0x55 :: ([0x0C, 0x04] ++ z100)
        ∧ 13 ≤ (calm.acc ++ ([0x55, 0x0C, 0x04] ++ z100)).length
        ∧ headerLength (calm.acc ++ ([0x55, 0x0C, 0x04] ++ z100)) < 13)
      ∧ headerLength (calm.acc ++ ([0x55, 0x00, 0x00] ++ z100)) < 13 := by decide
/-- A candidate for each clause. -/
theorem witness_FeedDeliversCandidate :
    calm.acc = [] ∧ isCandidate z0 = true ∧ calm.strict = false ∧ reportOf z0 = 0
      ∧ isCandidate badz0 = true ∧ { calm with strict := true }.strict = true ∧ reportOf badz0 ≠ 0 := by decide +kernel
/-- Frames that move the session twice; and none. -/
theorem witness_FeedAndPairRxAgree :
    (session .credentialsSent .none 0).acc = [] ∧ (∀ f ∈ [st02, app1], isCandidate f = true)
      ∧ ∀ f ∈ ([] : List Bytes), isCandidate f = true := by decide
theorem witness_PairStartSendsTrigger_sends :
    calm.pstate = .idle ∧ (List.replicate 255 (0x41 : Byte)).length ≤ 255 ∧ (List.replicate 255 (0x31 : Byte)).length ≤ 255 := by
  refine ⟨rfl, ?_, ?_⟩ <;> rw [List.length_replicate]
theorem witness_PairStartSendsTrigger_errors :
    (session .paired .none 0).pstate ≠ .idle ∧ 255 < (List.replicate 256 (0x41 : Byte)).length
      ∧ (([] : Bytes).length ≤ 255 ∧ 255 < (List.replicate 256 (0x31 : Byte)).length) := by
  refine ⟨by decide, ?_, by decide, ?_⟩ <;> rw [List.length_replicate] <;> decide
theorem witness_WriteDoneMovesOn :
    (session .triggerSent .trigWrite 0).phase = .trigWrite ∧ (session .triggerSent .credWrite 0).phase = .credWrite
      ∧ (session .triggerSent .settle 0).phase = .settle ∧ calm.phase = .none := by decide
theorem witness_SettleDoneSendsCredentials :
    (session .triggerSent .settle 0).phase = .settle ∧ (session .triggerSent .settle 0).ident.length ≤ 255
      ∧ (session .triggerSent .settle 0).pin.length ≤ 255 ∧ (session .triggerSent .trigWrite 0).phase ≠ .settle := by decide
theorem witness_PollTickCounts :
    ((session .credentialsSent .none 28).pstate = .credentialsSent ∧ (session .credentialsSent .none 28).polls.toNat < 29)
      ∧ ((session .awaitingApproval .none 29).pstate = .awaitingApproval ∧ (session .awaitingApproval .none 29).polls = 29)
      ∧ (calm.pstate ≠ .credentialsSent ∧ calm.pstate ≠ .awaitingApproval) := by decide

/-- A frame of 15 bytes with this instance's set and the given selector, flags and two payload bytes. -/
def reply (flags commandId p0 p1 : Byte) : Bytes :=
  [0x55, 0x0F, 0x04, 0x00, 0x07, 0x02, 0x00, 0x00, flags, Config.params.wifiCmdSet, commandId, p0, p1, 0x00, 0x00]

/-- Such a frame decodes in permissive mode, whatever the instance's parameters. -/
theorem reply_decodes (flags commandId p0 p1 : Byte) :
    decodeCore (reply flags commandId p0 p1) false = .ok (fieldsOf (reply flags commandId p0 p1)) := by
  simp [decodeCore_eq, reply, headerLength, byteAt]

/-- Status 1, status 2, another status, and no response flag. -/
theorem witness_StatusResponseMovesFsm :
    (session .credentialsSent .none 0).pstate = .credentialsSent
      ∧ (∀ p1, (fieldsOf (reply 0xC0 Config.params.pinSetCmdId 0 p1)).commandSet = Config.params.wifiCmdSet
        ∧ (fieldsOf (reply 0xC0 Config.params.pinSetCmdId 0 p1)).commandId = Config.params.pinSetCmdId
        ∧ (fieldsOf (reply 0xC0 Config.params.pinSetCmdId 0 p1)).flags.getLsbD 7 = true
        ∧ (fieldsOf (reply 0xC0 Config.params.pinSetCmdId 0 p1)).payload[1]?.or
            (fieldsOf (reply 0xC0 Config.params.pinSetCmdId 0 p1)).payload[0]? = some p1)
      ∧ (fieldsOf (reply 0x40 Config.params.pinSetCmdId 0 2)).flags.getLsbD 7 = false :=
  ⟨rfl, fun _ => ⟨rfl, rfl, (by decide : (0xC0 : Byte).getLsbD 7 = true), rfl⟩,
    (by decide : (0x40 : Byte).getLsbD 7 = false)⟩
/-- An approval, a notice that is none, and a session that is not waiting. -/
theorem witness_ApprovalNoticeMovesFsm :
    (session .awaitingApproval .none 0).pstate = .awaitingApproval
      ∧ (fieldsOf (reply 0x00 Config.params.approvedCmdId 1 0)).commandSet = Config.params.wifiCmdSet
      ∧ (fieldsOf (reply 0x00 Config.params.approvedCmdId 1 0)).commandId = Config.params.approvedCmdId
      ∧ (fieldsOf (reply 0x00 Config.params.approvedCmdId 1 0)).payload[0]? = some 0x01
      ∧ (fieldsOf (reply 0x00 Config.params.approvedCmdId 0 1)).payload[0]? = some 0x00
      ∧ (session .paired .none 0).pstate ≠ .credentialsSent ∧ (session .paired .none 0).pstate ≠ .awaitingApproval :=
  ⟨rfl, rfl, rfl, rfl, rfl, by decide, by decide⟩
theorem witness_PairRxRaisesDecodeErrors :
    exec (.decode (z100.take 12)) calm = .next (calm.outputs (.decShort 12) [] [])
      ∧ ∀ v, Response.decShort 12 ≠ .ok v := ⟨rfl, fun _ h => by cases h⟩
theorem witness_PairCancelAborts :
    (session .awaitingApproval .none 0).pstate = .awaitingApproval ∧ (session .timedOut .none 30).pstate = .timedOut := by
  decide
theorem witness_CompletionAfterCancelIsRefused :
    (session .triggerSent .credWrite 0).pstate = .triggerSent ∧ (session .triggerSent .credWrite 0).phase = .credWrite
      ∧ decodeCore z0 (session .triggerSent .credWrite 0).strict = .ok (fieldsOf z0) := ⟨rfl, rfl, rfl⟩
theorem witness_TerminalStatesAreLeftOnlyByReset :
    isTerminal (session .aborted .none 0).pstate = true ∧ (session .aborted .none 0).phase = .none
      ∧ (∃ t, exec (.pairStart [] []) (session .aborted .none 0) = .next t) ∧ Instr.pairStart [] [] ≠ .connReset :=
  ⟨rfl, rfl, ⟨_, rfl⟩, by decide⟩

/-- An empty accumulator is within every capacity. -/
theorem withinCap_nil (p : Config.Params) : withinCap p [] = true := by
  cases h : p.accCap <;> simp [withinCap, h]

/-- A state with an empty accumulator is legal where its session is. -/
theorem legal_of_acc_nil (s : State) (ha : s.acc = [])
    (h : (phaseLegal s && pollsLegal s && pairedLegal s && stringsLegal s) = true) : s.legal = true := by
  simp only [Bool.and_eq_true] at h
  simp [State.legal, ha, withinCap_nil, remainderShape, h]

/-- One tick before the bound, and all 30 from its start. -/
theorem witness_BoundedWaitEnds :
    ((session .credentialsSent .none 29).legal = true ∧ isWaiting (session .credentialsSent .none 29).pstate = true
        ∧ Instr.connReset ∉ [Instr.pairPollTick, .seqPeek]
        ∧ 30 ≤ (session .credentialsSent .none 29).polls.toNat + pollTicks [.pairPollTick, .seqPeek])
      ∧ 30 ≤ (session .awaitingApproval .none 0).polls.toNat + pollTicks (List.replicate 30 .pairPollTick) := by
  exact ⟨⟨legal_of_acc_nil _ rfl (by decide), rfl, by decide, by decide⟩, by decide⟩
theorem witness_OutcomesAtMostOncePerSession :
    calm.legal = true ∧ calm.pstate = .idle ∧ Instr.connReset ∉ [Instr.pairStart [] [], .pairCancel, .pairCancel] := by
  exact ⟨legal_of_acc_nil _ rfl (by decide), rfl, by decide⟩
/-- A legal state with a command on its port, which steps. -/
theorem witness_StepKeepsLegal : { calm with port := [0x36] }.legal = true ∧ ∃ t, step { calm with port := [0x36] } = .next t :=
  ⟨legal_of_acc_nil _ rfl (by decide), ⟨_, rfl⟩⟩

/-! The assembler (R92, R93) -/

theorem test_assemble_quoted :
    assemble "PAIR_START \"ABC\", \"1234\" ; start"
      = some [(.pairStart, [.bytes [0x41, 0x42, 0x43], .bytes [0x31, 0x32, 0x33, 0x34]])] := by decide +kernel
theorem test_assemble_decimal : assembleBytes "SEQ_RESET 258" = some [0x10, 0x02, 0x01] := by decide +kernel

end Sys2Proof.Tests
end

/-! PROOFS. Legal states (10_state.md section 1): what each operation asks for to keep them, and that every step keeps
them (O57). -/

namespace Sys2Proof.Machine

/-! The rules of `State.legal`, named -/

/-- The rules of `State.legal` one by one, as propositions. -/
structure State.IsLegal (s : State) : Prop where
  shape : remainderShape s.acc = true
  cap : withinCap Config.params s.acc = true
  phase : s.phase = .none ∨ s.pstate = .triggerSent
  polls_le : s.polls.toNat ≤ 30
  polls_waiting : isWaiting s.pstate = true → s.polls.toNat < 30
  polls_timedOut : s.pstate = .timedOut → s.polls.toNat = 30
  paired : s.paired = true ↔ s.pstate = .paired
  ident : s.ident.length ≤ 255
  pin : s.pin.length ≤ 255

theorem phaseLegal_iff (s : State) : phaseLegal s = true ↔ s.phase = .none ∨ s.pstate = .triggerSent := by
  simp [phaseLegal]

theorem pollsLegal_iff (s : State) :
    pollsLegal s = true ↔ s.polls.toNat ≤ 30 ∧ (isWaiting s.pstate = true → s.polls.toNat < 30)
      ∧ (s.pstate = .timedOut → s.polls.toNat = 30) := by
  simp only [pollsLegal, Bool.and_eq_true, decide_eq_true_eq, and_assoc, Bool.or_eq_true, Bool.not_eq_true', beq_iff_eq,
    ← Bool.not_eq_true, ← imp_iff_not_or]

theorem pairedLegal_iff (s : State) : pairedLegal s = true ↔ (s.paired = true ↔ s.pstate = .paired) := by
  rw [pairedLegal, beq_iff_eq, Bool.eq_iff_iff, beq_iff_eq]

theorem stringsLegal_iff (s : State) : stringsLegal s = true ↔ s.ident.length ≤ 255 ∧ s.pin.length ≤ 255 := by
  simp [stringsLegal]

theorem legal_iff (s : State) : s.legal = true ↔ s.IsLegal := by
  simp only [State.legal, Bool.and_eq_true, phaseLegal_iff, pollsLegal_iff, pairedLegal_iff, stringsLegal_iff]
  constructor
  · rintro ⟨⟨⟨⟨⟨shape, cap⟩, phase⟩, le, waiting, timedOut⟩, paired⟩, ident, pin⟩
    exact ⟨shape, cap, phase, le, waiting, timedOut, paired, ident, pin⟩
  · rintro ⟨shape, cap, phase, le, waiting, timedOut, paired, ident, pin⟩
    exact ⟨⟨⟨⟨⟨shape, cap⟩, phase⟩, le, waiting, timedOut⟩, paired⟩, ident, pin⟩

/-! Operations on what legality does not read: `SEQ`, `STRICT` and the port -/

section
variable (s : State)

@[simp] theorem legal_setSeq (v : Half) : (s.setSeq v).legal = s.legal := rfl
@[simp] theorem legal_setStrict (v : Bool) : (s.setStrict v).legal = s.legal := rfl
@[simp] theorem legal_setPort (v : Bytes) : (s.setPort v).legal = s.legal := rfl
@[simp] theorem legal_start : s.start.legal = s.legal := rfl
@[simp] theorem legal_emit (e : Event) : (s.emit e).legal = s.legal := rfl
@[simp] theorem legal_respond (r : Result) : (s.respond r).legal = s.legal := rfl
@[simp] theorem legal_endWith (r : Response) : (s.endWith r).legal = s.legal := rfl
@[simp] theorem legal_raise (r : Response) : (s.raise r).legal = s.legal := rfl

end

/-! The pairing FSM's steps -/

section
variable {s : State}

/-- A phase other than `None` is a phase of `TriggerSent` (R28). -/
theorem State.IsLegal.triggerSent_of_phase (h : s.IsLegal) (hp : s.phase ≠ .none) : s.pstate = .triggerSent :=
  h.phase.resolve_left hp

/-- Outside `TriggerSent` no write is in flight and no delay runs (R28). -/
theorem State.IsLegal.phase_none (h : s.IsLegal) (hp : s.pstate ≠ .triggerSent) : s.phase = .none :=
  h.phase.resolve_right hp

/-- Outside `Paired` the flag `PAIRED` is clear (R30). -/
theorem State.IsLegal.not_paired (h : s.IsLegal) (hp : s.pstate ≠ .paired) : s.paired ≠ true :=
  fun c => hp (h.paired.mp c)

theorem ne_triggerSent_of_waiting {p : PState} (h : isWaiting p = true) : p ≠ .triggerSent := by
  rintro rfl; cases h

theorem ne_paired_of_waiting {p : PState} (h : isWaiting p = true) : p ≠ .paired := by
  rintro rfl; cases h

theorem legal_enterPaired (h : s.legal = true) (hw : isWaiting s.pstate = true) : s.enterPaired.legal = true := by
  rw [legal_iff] at *
  exact { h with
    phase := .inl (h.phase_none (ne_triggerSent_of_waiting hw))
    polls_waiting := nofun
    polls_timedOut := nofun
    paired := ⟨fun _ => rfl, fun _ => rfl⟩ }

theorem legal_enterAwaiting (h : s.legal = true) (hc : s.pstate = .credentialsSent) : s.enterAwaiting.legal = true := by
  have hw : isWaiting s.pstate = true := by rw [hc]; rfl
  rw [legal_iff] at *
  exact { h with
    phase := .inl (h.phase_none (ne_triggerSent_of_waiting hw))
    polls_waiting := fun _ => h.polls_waiting hw
    polls_timedOut := nofun
    paired := ⟨fun c => absurd c (h.not_paired (ne_paired_of_waiting hw)), nofun⟩ }

theorem legal_offer (p : Config.Params) (f : FrameRecord) (h : s.legal = true) : (s.offer p f).legal = true := by
  rcases offer_cases p s f with e | ⟨hw, e⟩ | ⟨hc, e⟩ <;> rw [e]
  · exact h
  · exact legal_enterPaired h hw
  · exact legal_enterAwaiting h hc

/-- Abort keeps legality where the spec uses it: in a handshake that is not over (R208, R228). -/
theorem legal_abort (reason : AbortReason) (h : s.legal = true) (hp : s.pstate ≠ .paired) :
    (s.abort reason).legal = true := by
  rw [legal_iff] at *
  exact { h with
    phase := .inl rfl
    polls_waiting := nofun
    polls_timedOut := nofun
    paired := ⟨fun c => absurd c (h.not_paired hp), nofun⟩ }

theorem legal_sendTrigger (p : Config.Params) (ident pin : Bytes) (h : s.legal = true) (hi : s.pstate = .idle)
    (hident : ident.length ≤ 255) (hpin : pin.length ≤ 255) : (s.sendTrigger p ident pin).legal = true := by
  rw [legal_iff] at *
  exact { h with
    phase := .inr rfl
    polls_waiting := nofun
    polls_timedOut := nofun
    paired := ⟨fun c => absurd c (h.not_paired (by simp [hi])), nofun⟩
    ident := hident
    pin := hpin }

/-- A change of `PHASE` within `TriggerSent` (R28). -/
theorem legal_setPhase (v : Phase) (h : s.legal = true) (ht : s.pstate = .triggerSent) : (s.setPhase v).legal = true := by
  rw [legal_iff] at *
  exact { h with phase := .inr ht }

theorem legal_sendCredentials (p : Config.Params) (h : s.legal = true) (ht : s.pstate = .triggerSent) :
    (s.sendCredentials p).legal = true :=
  legal_setPhase (s := (s.setSeq (s.seq + 1)).txreq .cmd _) .credWrite h ht

/-- The credential write is done: the bounded wait begins with `POLLS` at 0 (R207). -/
theorem legal_beginWait (h : s.legal = true) (ht : s.pstate = .triggerSent) :
    (((s.setPState .credentialsSent).setPhase .none).setPolls 0).legal = true := by
  rw [legal_iff] at *
  exact { h with
    phase := .inl rfl
    polls_le := (by decide : (0 : BitVec 8).toNat ≤ 30)
    polls_waiting := fun _ => (by decide : (0 : BitVec 8).toNat < 30)
    polls_timedOut := nofun
    paired := ⟨fun c => absurd c (h.not_paired (by simp [ht])), nofun⟩ }

/-- A tick in the bounded wait: below 30 the count stays below 30, or it reaches 30 with `TimedOut` (R225). -/
theorem legal_pollOnce (h : s.legal = true) (hw : isWaiting s.pstate = true) : s.pollOnce.legal = true := by
  rw [legal_iff] at h
  rcases pollOnce_cases s with ⟨-, e⟩ | ⟨hne, e⟩ <;> rw [e, legal_iff]
  · exact { h with
      phase := .inl (h.phase_none (ne_triggerSent_of_waiting hw))
      polls_le := (by decide : (30 : BitVec 8).toNat ≤ 30)
      polls_waiting := nofun
      polls_timedOut := fun _ => rfl
      paired := ⟨fun c => absurd c (h.not_paired (ne_paired_of_waiting hw)), nofun⟩ }
  · have hlt := h.polls_waiting hw
    have hlt' : (s.polls + 1).toNat < 30 := by bv_omega
    exact { h with
      polls_le := hlt'.le
      polls_waiting := fun _ => hlt'
      polls_timedOut := fun (c : s.pstate = .timedOut) => absurd hw (by simp [c, isWaiting]) }

end

/-! The accumulator -/

/-- A string that is not longer fits a capacity as well. -/
theorem withinCap_of_length_le (p : Config.Params) {a b : Bytes} (hab : a.length ≤ b.length)
    (hb : withinCap p b = true) : withinCap p a = true := by
  unfold withinCap at *
  cases h : p.accCap with
  | none => rfl
  | some cap => simp only [h, decide_eq_true_eq] at hb ⊢; omega

/-- FEED's capacity check is the capacity rule on the working string (R170, R171). -/
theorem overflows_eq_not_withinCap (p : Config.Params) (acc chunk : Bytes) :
    overflows p acc chunk = !withinCap p (acc ++ chunk) := by
  unfold overflows withinCap
  cases p.accCap with
  | none => rfl
  | some cap => simp only [List.length_append, ← decide_not, not_le]

section
variable {s : State}

theorem legal_setAcc (v : Bytes) (h : s.legal = true) (hshape : remainderShape v = true)
    (hcap : withinCap Config.params v = true) : (s.setAcc v).legal = true := by
  rw [legal_iff] at *
  exact { h with shape := hshape, cap := hcap }

theorem legal_deliver (p : Config.Params) (f : Bytes) (h : s.legal = true) : (s.deliver p f).legal = true := by
  rcases deliver_cases p s f with ⟨r, -, e⟩ | ⟨w, -, e⟩ | ⟨-, e⟩ <;> rw [e]
  · exact legal_offer p r (by rwa [legal_emit])
  · rwa [legal_emit]
  · exact h

theorem legal_feedLoop (p : Config.Params) (n : Nat) (r : Bytes) (hn : r.length ≤ n) (h : s.legal = true) :
    (feedLoop p n r s).2.legal = true := by
  exact feedLoop_induct p (M := fun _ s a => s.legal = true → a.2.legal = true)
    (short := fun _ _ _ h => h)
    (noMagic := fun _ _ _ _ h => h)
    (fewLeft := fun _ _ _ _ _ h => h)
    (spurious := fun _ _ _ _ _ _ _ ih => ih)
    (incomplete := fun _ _ _ _ _ _ _ h => h)
    (candidate := fun _ _ _ _ _ _ _ ih h => ih (legal_deliver p _ h)) n r s hn h

theorem legal_feedChunk (chunk : Bytes) (h : s.legal = true) (hcap : overflows Config.params s.acc chunk = false) :
    (s.feedChunk Config.params chunk).legal = true := by
  obtain ⟨hshape, hlen⟩ := feedLoop_remainder Config.params _ (s.acc ++ chunk) s le_rfl
  have hwithin : withinCap Config.params (s.acc ++ chunk) = true := by
    simpa [overflows_eq_not_withinCap] using hcap
  rw [State.feedChunk, legal_respond]
  exact legal_setAcc _ (legal_feedLoop _ _ _ le_rfl h) hshape (withinCap_of_length_le _ hlen hwithin)

/-- CONN_RESET's registers are legal, whatever the state was (R282). -/
theorem legal_connectionReset (p : Config.Params) : (s.connectionReset p).legal = true := by
  rw [legal_iff]
  exact {
    shape := rfl
    cap := by
      unfold withinCap
      cases Config.params.accCap <;> simp [State.connectionReset]
    phase := .inl rfl
    polls_le := (by decide : (0 : BitVec 8).toNat ≤ 30)
    polls_waiting := nofun
    polls_timedOut := nofun
    paired := ⟨nofun, nofun⟩
    ident := Nat.zero_le _
    pin := Nat.zero_le _ }

end

/-! The commands -/

/-- Where the answer is a next state, that state is legal. -/
def AnswersLegal (a : Answer) : Prop := ∀ t, a = .next t → t.legal = true

@[simp] theorem answersLegal_next (t : State) : AnswersLegal (.next t) ↔ t.legal = true :=
  ⟨fun h => h t rfl, fun h u e => by cases e; exact h⟩

section
variable {s : State}

theorem execCrc_keeps_legal (width : Byte) (poly init xorOut : Half) (refIn refOut : Bool) (data : Bytes)
    (h : s.legal = true) : AnswersLegal (execCrc width poly init xorOut refIn refOut data s) := by
  rw [execCrc, answersLegal_next]
  split
  · rwa [legal_raise]
  · rwa [legal_respond, legal_start]

theorem execEncode_keeps_legal (target : Half) (flags commandSet commandId : Byte) (payload : Bytes)
    (h : s.legal = true) : AnswersLegal (execEncode target flags commandSet commandId payload s) := by
  rw [execEncode, answersLegal_next]
  split
  · rwa [legal_raise]
  · rwa [legal_respond, encodeFrame_eq, legal_setSeq, legal_start]

theorem execDecode_keeps_legal (data : Bytes) (h : s.legal = true) : AnswersLegal (execDecode data s) := by
  rw [execDecode, answersLegal_next]
  split
  · rwa [legal_respond, legal_start]
  · rwa [legal_raise]

theorem execFeed_keeps_legal (chunk : Bytes) (h : s.legal = true) : AnswersLegal (execFeed chunk s) := by
  rw [execFeed, answersLegal_next]
  split
  · rwa [legal_raise]
  · next hcap => exact legal_feedChunk (s := s.start) chunk h (Bool.eq_false_iff.mpr hcap)

/-- The strings a PAIR_START accepts have at most 255 bytes (R205). -/
theorem length_le_of_badString_eq_none {ident pin : Bytes} (h : badString ident pin = none) :
    ident.length ≤ 255 ∧ pin.length ≤ 255 := by
  rw [badString_eq] at h
  split_ifs at h
  omega

theorem execPairStart_keeps_legal (ident pin : Bytes) (h : s.legal = true) :
    AnswersLegal (execPairStart ident pin s) := by
  rw [execPairStart, answersLegal_next]
  split
  · rwa [legal_raise]
  next hidle =>
    split
    · rwa [legal_raise]
    next hgood =>
      obtain ⟨hident, hpin⟩ := length_le_of_badString_eq_none hgood
      rw [legal_respond]
      exact legal_sendTrigger _ ident pin h (not_not.mp hidle) hident hpin

theorem execPairWriteDone_keeps_legal (ok : Bool) (h : s.legal = true) : AnswersLegal (execPairWriteDone ok s) := by
  have inTrigger (hp : s.phase ≠ .none) : s.pstate = .triggerSent := ((legal_iff s).mp h).triggerSent_of_phase hp
  have failed (status : Response) (ht : s.pstate = .triggerSent) :
      ((s.start.abort .transport).endWith status).legal = true := by
    rw [legal_endWith]
    exact legal_abort _ h (by simp [ht])
  unfold execPairWriteDone
  rw [answersLegal_next]
  split
  next hphase => exact failed _ (inTrigger (by simp [hphase]))
  next hphase => exact failed _ (inTrigger (by simp [hphase]))
  next hphase => exact legal_setPhase (s := s.start) .settle h (inTrigger (by simp [hphase]))
  next hphase => exact legal_beginWait (s := s.start) h (inTrigger (by simp [hphase]))
  · rwa [legal_raise]
  · rwa [legal_raise]

theorem execPairSettleDone_keeps_legal (h : s.legal = true) : AnswersLegal (execPairSettleDone s) := by
  rw [execPairSettleDone, answersLegal_next]
  split
  · rwa [legal_raise]
  next hphase =>
    have hset : s.phase = .settle := not_not.mp hphase
    rw [legal_respond]
    exact legal_sendCredentials _ h (((legal_iff s).mp h).triggerSent_of_phase (by simp [hset]))

theorem execPairPollTick_keeps_legal (h : s.legal = true) : AnswersLegal (execPairPollTick s) := by
  rw [execPairPollTick, answersLegal_next, legal_respond]
  split
  next hw => exact legal_pollOnce (s := s.start) h hw
  · rwa [legal_start]

theorem execPairRx_keeps_legal (data : Bytes) (h : s.legal = true) : AnswersLegal (execPairRx data s) := by
  rw [execPairRx, answersLegal_next]
  split
  · exact legal_offer (s := s.start) _ _ h
  · rwa [legal_raise]

theorem execPairCancel_keeps_legal (h : s.legal = true) : AnswersLegal (execPairCancel s) := by
  rw [execPairCancel, answersLegal_next]
  split
  next hp =>
    rw [legal_respond]
    exact legal_abort _ h (hp.elim (fun ht => by simp [ht]) ne_paired_of_waiting)
  · rwa [legal_raise]

theorem execConnReset_legal (s : State) : AnswersLegal (execConnReset s) := by
  rw [execConnReset, answersLegal_next, legal_respond]
  exact legal_connectionReset _

/-- Every command keeps legality: the commands without a lemma above write at most `SEQ`, `STRICT` and the response. -/
theorem exec_keeps_legal (i : Instr) (h : s.legal = true) : AnswersLegal (exec i s) := by
  cases i with
  | crc width poly init xorOut refIn refOut data => exact execCrc_keeps_legal width poly init xorOut refIn refOut data h
  | crc8 data => simpa [exec, execCrc8] using h
  | crc16 data => simpa [exec, execCrc16] using h
  | seqReset value => simpa [exec, execSeqReset] using h
  | seqPeek => simpa [exec, execSeqPeek] using h
  | encode target flags commandSet commandId payload =>
    exact execEncode_keeps_legal target flags commandSet commandId payload h
  | decode data => exact execDecode_keeps_legal data h
  | setStrict value => simpa [exec, execSetStrict] using h
  | feed chunk => exact execFeed_keeps_legal chunk h
  | pairStart ident pin => exact execPairStart_keeps_legal ident pin h
  | pairWriteDone ok => exact execPairWriteDone_keeps_legal ok h
  | pairSettleDone => exact execPairSettleDone_keeps_legal h
  | pairPollTick => exact execPairPollTick_keeps_legal h
  | pairRx data => exact execPairRx_keeps_legal data h
  | pairCancel => exact execPairCancel_keeps_legal h
  | pairStatus => simpa [exec, execPairStatus] using h
  | connReset => exact execConnReset_legal s

/-! The step -/

theorem perform_keeps_legal (c : Command) (h : s.legal = true) : AnswersLegal (perform c s) := by
  cases c with
  | instr i => exact exec_keeps_legal i h
  | illegal opcode => simpa [perform, State.rejectIllegal] using h
  | malformed index => simpa [perform, State.rejectOperand] using h

/-- What a step can do: hold the state on an empty port (R265), or perform a command on the state that took its bytes. -/
theorem step_cases (s : State) : step s = .next s ∨ ∃ c rest, step s = perform c (s.setPort rest) := by
  unfold step State.fetch
  cases decode s.port with
  | none => exact .inl rfl
  | some x => exact .inr ⟨x.1, x.2, rfl⟩

theorem step_keeps_legal (h : s.legal = true) : AnswersLegal (step s) := by
  rcases step_cases s with e | ⟨c, rest, e⟩ <;> rw [e]
  · rwa [answersLegal_next]
  · exact perform_keeps_legal c (by rwa [legal_setPort])

end

/-- Settles O57: it holds. A step is a command on the state that took its bytes, and each command's meaning is made of
operations that keep legality where the command's guard puts them. -/
theorem stepKeepsLegal : Obligations.StepKeepsLegal := fun _ t h e => step_keeps_legal h t e

end Sys2Proof.Machine

/-! PROOFS. The command port and the registers (20_memory.md): a step runs the command at the port's head (O8, O9), and
each command writes only the registers listed for it (O14). -/

namespace Sys2Proof

/-! The serialised command read back (R102) -/

/-- The family of `TupleBuilds`, for every command. -/
theorem tupleBuilds (i : Instr) : Laws.TupleBuilds.Statement i := by
  cases i with
  | crc width poly init xorOut refIn refOut data => exact Laws.TupleBuilds.crc width poly init xorOut refIn refOut data
  | crc8 data => exact Laws.TupleBuilds.crc8 data
  | crc16 data => exact Laws.TupleBuilds.crc16 data
  | seqReset value => exact Laws.TupleBuilds.seqReset value
  | seqPeek => exact Laws.TupleBuilds.seqPeek
  | encode target flags commandSet commandId payload =>
    exact Laws.TupleBuilds.encode target flags commandSet commandId payload
  | decode data => exact Laws.TupleBuilds.decode data
  | setStrict value => exact Laws.TupleBuilds.setStrict value
  | feed chunk => exact Laws.TupleBuilds.feed chunk
  | pairStart ident pin => exact Laws.TupleBuilds.pairStart ident pin
  | pairWriteDone ok => exact Laws.TupleBuilds.pairWriteDone ok
  | pairSettleDone => exact Laws.TupleBuilds.pairSettleDone
  | pairPollTick => exact Laws.TupleBuilds.pairPollTick
  | pairRx data => exact Laws.TupleBuilds.pairRx data
  | pairCancel => exact Laws.TupleBuilds.pairCancel
  | pairStatus => exact Laws.TupleBuilds.pairStatus
  | connReset => exact Laws.TupleBuilds.connReset

/-- A byte stream that begins with an assigned opcode: its operands are read, then checked (R91, R102). -/
theorem decode_byte_cons (op : Opcode) (bs : Bytes) :
    decode (op.byte :: bs) = some (op.check (readOperands op.shape bs).1, (readOperands op.shape bs).2) := by
  simp only [decode, Opcode.ofByte_byte]

theorem decode_encode_append (i : Instr) (rest : Bytes) (h : i.wf = true) :
    decode (encode i ++ rest) = some (.instr i, rest) := by
  obtain ⟨hser, hbuild⟩ := tupleBuilds i
  have hcheck : i.opcode.check i.operands = .instr i :=
    Opcode.check_of _ _ i (firstBad_of_serialisables _ _ 0 (hser h)) hbuild
  rw [encode, writeTuple, List.cons_append, decode_byte_cons, readOperands_write _ _ rest (hser h), hcheck]

end Sys2Proof

namespace Sys2Proof.Machine

/-! The step -/

/-- A step with a command at the port's head performs it on the state that has taken its bytes (R60). -/
theorem step_of_decode {s : State} {c : Command} {rest : Bytes} (h : decode s.port = some (c, rest)) :
    step s = perform c (s.setPort rest) := by
  simp only [step, State.fetch, h]

/-- Settles O8: it holds. -/
theorem stepRunsDecodedCommand : Obligations.StepRunsDecodedCommand := fun _ _ _ h => step_of_decode h

/-! What each command writes -/

/-- The state table's "written by" column (10_state.md section 1) read by command: from `s` to `t` at most the output and
the command's own registers change. -/
def WritesOnly : Opcode → State → State → Prop
  | .crc, s, t | .crc8, s, t | .crc16, s, t | .seqPeek, s, t | .decode, s, t | .pairStatus, s, t =>
    t = { s with out := t.out }
  | .seqReset, s, t | .encode, s, t => t = { s with seq := t.seq, out := t.out }
  | .setStrict, s, t => t = { s with strict := t.strict, out := t.out }
  | .feed, s, t => t = { s with acc := t.acc, pstate := t.pstate, paired := t.paired, out := t.out }
  | .pairStart, s, t =>
    t = { s with pstate := t.pstate, phase := t.phase, ident := t.ident, pin := t.pin, out := t.out }
  | .pairWriteDone, s, t => t = { s with pstate := t.pstate, phase := t.phase, polls := t.polls, out := t.out }
  | .pairSettleDone, s, t => t = { s with seq := t.seq, phase := t.phase, out := t.out }
  | .pairPollTick, s, t => t = { s with pstate := t.pstate, polls := t.polls, out := t.out }
  | .pairRx, s, t => t = { s with pstate := t.pstate, paired := t.paired, out := t.out }
  | .pairCancel, s, t => t = { s with pstate := t.pstate, phase := t.phase, out := t.out }
  | .connReset, s, t => t = { t with strict := s.strict, port := s.port }

/-- An error writes no register, whichever command raises it (R252). -/
theorem writesOnly_raise (op : Opcode) (s : State) (r : Response) : WritesOnly op s (s.raise r) := by
  cases op <;> rfl

/-- The same table read by register. -/
theorem WritesOnly.unchanged {op : Opcode} {s t : State} (h : WritesOnly op s t) :
    t.port = s.port
      ∧ (op ∉ [.seqReset, .encode, .pairSettleDone, .connReset] → t.seq = s.seq)
      ∧ (op ≠ .setStrict → t.strict = s.strict)
      ∧ (op ∉ [.feed, .connReset] → t.acc = s.acc)
      ∧ (writesSession op = false → t.pstate = s.pstate)
      ∧ (writesSession op = false ∨ op = .feed → t.phase = s.phase)
      ∧ (op ∉ [.pairWriteDone, .pairPollTick, .connReset] → t.polls = s.polls)
      ∧ (op ∉ [.pairRx, .feed, .connReset] → t.paired = s.paired)
      ∧ (op ∉ [.pairStart, .connReset] → t.ident = s.ident ∧ t.pin = s.pin) := by
  cases op <;> (rw [WritesOnly] at h; rw [h]; simp [writesSession])

/-- The command ends with a next state, in which at most its own registers have changed. -/
def AnswersFramed (op : Opcode) (s : State) (a : Answer) : Prop := ∃ t, a = .next t ∧ WritesOnly op s t

@[simp] theorem answersFramed_next (op : Opcode) (s t : State) : AnswersFramed op s (.next t) ↔ WritesOnly op s t := by
  simp [AnswersFramed]

section
variable (s : State)

theorem execCrc_framed (width : Byte) (poly init xorOut : Half) (refIn refOut : Bool) (data : Bytes) :
    AnswersFramed .crc s (execCrc width poly init xorOut refIn refOut data s) := by
  rw [execCrc, answersFramed_next]
  split
  · exact writesOnly_raise _ s _
  · rfl

theorem execEncode_framed (target : Half) (flags commandSet commandId : Byte) (payload : Bytes) :
    AnswersFramed .encode s (execEncode target flags commandSet commandId payload s) := by
  rw [execEncode, answersFramed_next]
  split
  · exact writesOnly_raise _ s _
  · rfl

theorem execDecode_framed (data : Bytes) : AnswersFramed .decode s (execDecode data s) := by
  rw [execDecode, answersFramed_next]
  split
  · rfl
  · exact writesOnly_raise _ s _

/-- FEED's loop keeps all but the session's state and the events; after it `ACC` and the response are written (R178). -/
theorem execFeed_framed (chunk : Bytes) : AnswersFramed .feed s (execFeed chunk s) := by
  rw [execFeed, answersFramed_next]
  split
  · exact writesOnly_raise _ s _
  · have loop : FramerFrame s.start _ := feedLoop_frame Config.params _ (s.start.acc ++ chunk) s.start le_rfl
    rw [FramerFrame] at loop
    rw [State.feedChunk, loop]
    rfl

theorem execPairStart_framed (ident pin : Bytes) : AnswersFramed .pairStart s (execPairStart ident pin s) := by
  rw [execPairStart, answersFramed_next]
  split
  · exact writesOnly_raise _ s _
  · split
    · exact writesOnly_raise _ s _
    · rfl

theorem execPairWriteDone_framed (ok : Bool) : AnswersFramed .pairWriteDone s (execPairWriteDone ok s) := by
  unfold execPairWriteDone
  rw [answersFramed_next]
  split
  · rfl
  · rfl
  · rfl
  · rfl
  · exact writesOnly_raise _ s _
  · exact writesOnly_raise _ s _

theorem execPairSettleDone_framed : AnswersFramed .pairSettleDone s (execPairSettleDone s) := by
  rw [execPairSettleDone, answersFramed_next]
  split
  · exact writesOnly_raise _ s _
  · rfl

theorem execPairPollTick_framed : AnswersFramed .pairPollTick s (execPairPollTick s) := by
  rw [execPairPollTick, answersFramed_next]
  split
  · rcases pollOnce_cases s.start with ⟨-, e⟩ | ⟨-, e⟩ <;> rw [e] <;> rfl
  · rfl

theorem execPairRx_framed (data : Bytes) : AnswersFramed .pairRx s (execPairRx data s) := by
  rw [execPairRx, answersFramed_next]
  split
  next f _ =>
    have offered : FramerFrame s.start _ := offer_frame Config.params s.start f
    rw [FramerFrame] at offered
    rw [offered]
    rfl
  · exact writesOnly_raise _ s _

theorem execPairCancel_framed : AnswersFramed .pairCancel s (execPairCancel s) := by
  rw [execPairCancel, answersFramed_next]
  split
  · rfl
  · exact writesOnly_raise _ s _

/-- Every command ends with a next state and writes at most its own registers. The commands without a lemma above have one
branch, whose operations show what they write. -/
theorem exec_framed (i : Instr) : AnswersFramed i.opcode s (exec i s) := by
  cases i with
  | crc width poly init xorOut refIn refOut data => exact execCrc_framed s width poly init xorOut refIn refOut data
  | encode target flags commandSet commandId payload =>
    exact execEncode_framed s target flags commandSet commandId payload
  | decode data => exact execDecode_framed s data
  | feed chunk => exact execFeed_framed s chunk
  | pairStart ident pin => exact execPairStart_framed s ident pin
  | pairWriteDone ok => exact execPairWriteDone_framed s ok
  | pairSettleDone => exact execPairSettleDone_framed s
  | pairPollTick => exact execPairPollTick_framed s
  | pairRx data => exact execPairRx_framed s data
  | pairCancel => exact execPairCancel_framed s
  | crc8 _ | crc16 _ | seqReset _ | seqPeek | setStrict _ | pairStatus | connReset => exact ⟨_, rfl, rfl⟩

end

/-- Settles O14: it holds. Each command's frame, read by register. -/
theorem onlyListedCommandsWrite : Obligations.OnlyListedCommandsWrite := by
  intro i s t e
  obtain ⟨u, answer, frame⟩ := exec_framed s i
  obtain rfl : t = u := Host.Outcome.next.inj (e.symm.trans answer)
  exact frame.unchanged

/-- Settles O9: it holds. The command's bytes decode to it, and its meaning ends with a next state that keeps the port. -/
theorem stepRunsEncodedCommand : Obligations.StepRunsEncodedCommand := by
  intro s i rest hwf hport
  have run : step s = exec i (s.setPort rest) := step_of_decode (hport ▸ decode_encode_append i rest hwf)
  obtain ⟨t, answer, frame⟩ := exec_framed (s.setPort rest) i
  obtain ⟨keepsPort, -⟩ := frame.unchanged
  exact ⟨run, t, run.trans answer, keepsPort⟩

end Sys2Proof.Machine

/-! PROOFS. The encodings (30_encoding.md): the operand check and the commands it lets through (O6), decoding and encoding
undo each other (O2, O3), streams that are cut short, out of range or illegal (O7, O59, O4, O5), the spec's examples (O1,
O58), and the frame that ENCODE returns (O25). -/

namespace Sys2Proof

/-! The operand check (R89) -/

/-- The tuple has the shape: as many operands as types, each a value of its type. -/
def Admitted (ts : List OperandType) (vs : List Operand) : Prop := List.Forall₂ (fun t v => t.admits v = true) ts vs

theorem firstBad_eq_none_iff (k : Nat) (ts : List OperandType) (vs : List Operand) :
    firstBad k ts vs = none ↔ Admitted ts vs := by
  induction ts generalizing k vs with
  | nil => cases vs <;> simp [firstBad, Admitted]
  | cons t ts ih =>
    cases vs with
    | nil => simp [firstBad, Admitted]
    | cons v vs =>
      rw [firstBad, Admitted, List.forall₂_cons]
      split
      next ha => exact (ih (k + 1) vs).trans (and_iff_right ha).symm
      next ha => simp [ha]

/-- `operandGood` for any list of types. -/
def goodAt (ts : List OperandType) (vs : List Operand) (k : Nat) : Bool :=
  match ts[k]?, vs[k]? with
  | some t, some v => t.admits v
  | _, _ => false

theorem operandGood_eq_goodAt (op : Opcode) (args : List Operand) (k : Nat) :
    Machine.operandGood op args k = goodAt op.shape args k := rfl

@[simp] theorem goodAt_nil_left (vs : List Operand) (k : Nat) : goodAt [] vs k = false := rfl

@[simp] theorem goodAt_nil_right (ts : List OperandType) (k : Nat) : goodAt ts [] k = false := by
  unfold goodAt; cases ts[k]? <;> rfl

@[simp] theorem goodAt_cons_zero (t : OperandType) (ts : List OperandType) (v : Operand) (vs : List Operand) :
    goodAt (t :: ts) (v :: vs) 0 = t.admits v := rfl

@[simp] theorem goodAt_cons_succ (t : OperandType) (ts : List OperandType) (v : Operand) (vs : List Operand) (k : Nat) :
    goodAt (t :: ts) (v :: vs) (k + 1) = goodAt ts vs k := rfl

/-- The check, counting from `n`, reports the first position that does not hold a value of its type; a missing or surplus
operand is such a position (entry 6). -/
theorem firstBad_eq_some (n : Nat) (ts : List OperandType) (vs : List Operand) (k : Nat)
    (before : ∀ j < k, goodAt ts vs j = true) (bad : goodAt ts vs k = false) (inside : k < ts.length ∨ k < vs.length) :
    firstBad n ts vs = some (n + k) := by
  induction ts generalizing n vs k with
  | nil =>
    obtain rfl : k = 0 := by
      by_contra hk
      simpa using before 0 (Nat.pos_of_ne_zero hk)
    cases vs with
    | nil => simp at inside
    | cons v vs => rfl
  | cons t ts ih =>
    cases vs with
    | nil =>
      obtain rfl : k = 0 := by
        by_contra hk
        simpa using before 0 (Nat.pos_of_ne_zero hk)
      rfl
    | cons v vs =>
      cases k with
      | zero => simp_all [firstBad]
      | succ k =>
        have head : t.admits v = true := before 0 k.succ_pos
        have tail := ih (n + 1) vs k (fun j hj => before (j + 1) (Nat.succ_lt_succ hj)) bad (by simpa using inside)
        rw [firstBad, if_pos head, tail]
        congr 1
        omega

theorem admitted_of_goodAt (ts : List OperandType) (vs : List Operand) (count : vs.length = ts.length)
    (good : ∀ j < ts.length, goodAt ts vs j = true) : Admitted ts vs := by
  refine List.forall₂_iff_get.mpr ⟨count.symm, fun j ht hv => ?_⟩
  simpa [goodAt, ht, hv] using good j ht

/-! Tuples of a shape, operand by operand (R88, R89) -/

section
variable {ts : List OperandType} {vs : List Operand}

theorem admitted_nil_iff : Admitted [] vs ↔ vs = [] := List.forall₂_nil_left_iff

theorem admitted_cons_iff {t : OperandType} :
    Admitted (t :: ts) vs ↔ ∃ v vs', t.admits v = true ∧ Admitted ts vs' ∧ vs = v :: vs' :=
  List.forall₂_cons_left_iff

@[simp] theorem admits_u8_toNat (b : Byte) : OperandType.u8.admits (.nat b.toNat) = true := decide_eq_true b.isLt

@[simp] theorem admits_u16_toNat (h : Half) : OperandType.u16.admits (.nat h.toNat) = true := decide_eq_true h.isLt

theorem admitted_u1_iff :
    Admitted (.u1 :: ts) vs ↔ ∃ (b : Bool) (vs' : List Operand), vs = ofFlag b :: vs' ∧ Admitted ts vs' := by
  rw [admitted_cons_iff]
  constructor
  · rintro ⟨_ | _, vs', ha, hs, rfl⟩
    next n =>
      have hn : n < 2 := of_decide_eq_true ha
      exact ⟨decide (n = 1), vs', by interval_cases n <;> rfl, hs⟩
    · cases ha
  · rintro ⟨b, vs', rfl, hs⟩
    exact ⟨_, vs', by cases b <;> rfl, hs, rfl⟩

theorem admitted_u8_iff :
    Admitted (.u8 :: ts) vs ↔ ∃ (b : Byte) (vs' : List Operand), vs = .nat b.toNat :: vs' ∧ Admitted ts vs' := by
  rw [admitted_cons_iff]
  constructor
  · rintro ⟨_ | _, vs', ha, hs, rfl⟩
    next n => exact ⟨BitVec.ofNatLT n (of_decide_eq_true ha), vs', rfl, hs⟩
    · cases ha
  · rintro ⟨b, vs', rfl, hs⟩
    exact ⟨_, vs', admits_u8_toNat b, hs, rfl⟩

theorem admitted_u16_iff :
    Admitted (.u16 :: ts) vs ↔ ∃ (h : Half) (vs' : List Operand), vs = .nat h.toNat :: vs' ∧ Admitted ts vs' := by
  rw [admitted_cons_iff]
  constructor
  · rintro ⟨_ | _, vs', ha, hs, rfl⟩
    next n => exact ⟨BitVec.ofNatLT n (of_decide_eq_true ha), vs', rfl, hs⟩
    · cases ha
  · rintro ⟨h, vs', rfl, hs⟩
    exact ⟨_, vs', admits_u16_toNat h, hs, rfl⟩

theorem admitted_bytes_iff :
    Admitted (.bytes :: ts) vs ↔ ∃ (b : Bytes) (vs' : List Operand), vs = .bytes b :: vs' ∧ Admitted ts vs' := by
  rw [admitted_cons_iff]
  constructor
  · rintro ⟨_ | _, vs', ha, hs, rfl⟩
    · cases ha
    next b => exact ⟨b, vs', rfl, hs⟩
  · rintro ⟨b, vs', rfl, hs⟩
    exact ⟨_, vs', rfl, hs, rfl⟩

end

/-- A tuple of an opcode's shape is the operands of a command with that opcode (R88, R91). -/
theorem exists_instr_of_admitted (op : Opcode) (args : List Operand) (h : Admitted op.shape args) :
    ∃ i : Instr, i.opcode = op ∧ i.operands = args := by
  cases op <;>
    simp only [Opcode.shape, admitted_nil_iff, admitted_u1_iff, admitted_u8_iff, admitted_u16_iff,
      admitted_bytes_iff] at h
  case crc =>
    obtain ⟨width, _, rfl, poly, _, rfl, init, _, rfl, xorOut, _, rfl, refIn, _, rfl, refOut, _, rfl, data, _, rfl,
      rfl⟩ := h
    exact ⟨.crc width poly init xorOut refIn refOut data, rfl, rfl⟩
  case crc8 => obtain ⟨data, _, rfl, rfl⟩ := h; exact ⟨.crc8 data, rfl, rfl⟩
  case crc16 => obtain ⟨data, _, rfl, rfl⟩ := h; exact ⟨.crc16 data, rfl, rfl⟩
  case seqReset => obtain ⟨value, _, rfl, rfl⟩ := h; exact ⟨.seqReset value, rfl, rfl⟩
  case seqPeek => exact ⟨.seqPeek, rfl, h.symm⟩
  case encode =>
    obtain ⟨target, _, rfl, flags, _, rfl, commandSet, _, rfl, commandId, _, rfl, payload, _, rfl, rfl⟩ := h
    exact ⟨.encode target flags commandSet commandId payload, rfl, rfl⟩
  case decode => obtain ⟨data, _, rfl, rfl⟩ := h; exact ⟨.decode data, rfl, rfl⟩
  case setStrict => obtain ⟨value, _, rfl, rfl⟩ := h; exact ⟨.setStrict value, rfl, rfl⟩
  case feed => obtain ⟨chunk, _, rfl, rfl⟩ := h; exact ⟨.feed chunk, rfl, rfl⟩
  case pairStart => obtain ⟨ident, _, rfl, pin, _, rfl, rfl⟩ := h; exact ⟨.pairStart ident pin, rfl, rfl⟩
  case pairWriteDone => obtain ⟨ok, _, rfl, rfl⟩ := h; exact ⟨.pairWriteDone ok, rfl, rfl⟩
  case pairSettleDone => exact ⟨.pairSettleDone, rfl, h.symm⟩
  case pairPollTick => exact ⟨.pairPollTick, rfl, h.symm⟩
  case pairRx => obtain ⟨data, _, rfl, rfl⟩ := h; exact ⟨.pairRx data, rfl, rfl⟩
  case pairCancel => exact ⟨.pairCancel, rfl, h.symm⟩
  case pairStatus => exact ⟨.pairStatus, rfl, h.symm⟩
  case connReset => exact ⟨.connReset, rfl, h.symm⟩

/-- What the operand check answers: the first bad position, or the command with exactly these operands (R89, R91). The
branch of `Opcode.check` for a tuple that does not build is never taken. -/
theorem check_malformed_or_instr (op : Opcode) (args : List Operand) :
    (∃ k, firstBad 0 op.shape args = some k ∧ op.check args = .malformed k)
      ∨ ∃ i : Instr, i.opcode = op ∧ i.operands = args ∧ Admitted op.shape args ∧ op.check args = .instr i := by
  cases hbad : firstBad 0 op.shape args with
  | some k => exact .inl ⟨k, rfl, by rw [Opcode.check, hbad]⟩
  | none =>
    have ha := (firstBad_eq_none_iff 0 op.shape args).mp hbad
    obtain ⟨i, rfl, rfl⟩ := exists_instr_of_admitted op args ha
    exact .inr ⟨i, rfl, rfl, ha, Opcode.check_of _ _ i hbad (tupleBuilds i).2⟩

theorem check_of_firstBad {op : Opcode} {args : List Operand} {k : Nat} (h : firstBad 0 op.shape args = some k) :
    op.check args = .malformed k := by
  rw [Opcode.check, h]

/-- A tuple passes the check as a command only if it is the command's opcode and operands. -/
theorem check_eq_instr {op : Opcode} {args : List Operand} {i : Instr} (h : op.check args = .instr i) :
    i.opcode = op ∧ i.operands = args ∧ firstBad 0 op.shape args = none := by
  rcases check_malformed_or_instr op args with ⟨k, -, e⟩ | ⟨j, hop, hargs, ha, e⟩ <;> rw [e] at h <;> cases h
  exact ⟨hop, hargs, (firstBad_eq_none_iff _ _ _).mpr ha⟩

/-! Decoding and encoding (R102) -/

/-- A command is well-formed where every byte string among its operands is at most 65535 bytes long. -/
theorem wf_iff (i : Instr) : i.wf = true ↔ ∀ b, Operand.bytes b ∈ i.operands → fitsPrefix b = true := by
  cases i <;> simp [Instr.wf, Instr.operands, ofFlag]

theorem fitsPrefix_of_serialisables {ts : List OperandType} {vs : List Operand} (h : serialisables ts vs = true)
    {b : Bytes} (hb : .bytes b ∈ vs) : fitsPrefix b = true := by
  induction ts generalizing vs with
  | nil => cases vs <;> simp_all [serialisables]
  | cons t ts ih =>
    cases vs with
    | nil => cases hb
    | cons v vs =>
      simp only [serialisables, Bool.and_eq_true] at h
      obtain ⟨hv, hvs⟩ := h
      rcases List.mem_cons.mp hb with rfl | hmem
      · simp only [serialisable, Bool.and_eq_true] at hv
        exact hv.2
      · exact ih hvs hmem

/-- The converse of `decode_encode_append`: a command that is decoded was written by `encode`, in the one form it has. -/
theorem eq_encode_append_of_decode {bs rest : Bytes} {i : Instr} (h : decode bs = some (.instr i, rest)) :
    i.wf = true ∧ bs = encode i ++ rest := by
  cases bs with
  | nil => cases h
  | cons b bs =>
    cases hop : Opcode.ofByte b with
    | none => simp [decode, hop] at h
    | some op =>
      obtain rfl : op.byte = b := (Opcode.ofByte_eq_some b op).mp hop
      rw [decode_byte_cons, Option.some.injEq, Prod.mk.injEq] at h
      obtain ⟨hcheck, rfl⟩ := h
      obtain ⟨rfl, hargs, hgood⟩ := check_eq_instr hcheck
      obtain ⟨hbs, hser⟩ := writeOperands_read _ bs 0 hgood
      rw [← hargs] at hbs hser
      refine ⟨(wf_iff i).mpr fun _ hb => fitsPrefix_of_serialisables hser hb, ?_⟩
      rw [encode, writeTuple, List.cons_append, ← hbs]

/-- Settles O2: it holds. -/
theorem decodeOfEncode : Obligations.DecodeOfEncode := fun i rest h => decode_encode_append i rest h

/-- Settles O3: it holds. What passes the operand check writes back as the bytes it was read from. -/
theorem encodeOfDecode : Obligations.EncodeOfDecode := fun _ _ _ h => eq_encode_append_of_decode h

end Sys2Proof

/-! What a step does with the commands the port rejects (R89, R90, R102) -/

namespace Sys2Proof

/-- An operand that is read in full is read the same where more bytes follow. -/
theorem readOperand_append {t : OperandType} {bs rest : Bytes} {v : Operand} (h : readOperand t bs = some (v, rest))
    (c : Bytes) : readOperand t (bs ++ c) = some (v, rest ++ c) := by
  unfold readOperand at h
  split at h
  · cases h; rfl
  next b0 b1 tail =>
    split at h
    next hfits =>
      cases h
      have fitsStill : (Machine.le16 b0 b1).toNat ≤ (tail ++ c).length := by rw [List.length_append]; omega
      simp only [List.cons_append, readOperand, if_pos fitsStill, List.take_append_of_le_length hfits,
        List.drop_append_of_le_length hfits]
    · cases h
  · cases h; rfl
  · cases h; rfl
  · cases h; rfl
  · cases h

theorem decode_of_readOperands {op : Opcode} {bs rest : Bytes} {args : List Operand}
    (h : readOperands op.shape bs = (args, rest)) : decode (op.byte :: bs) = some (op.check args, rest) := by
  rw [decode_byte_cons, h]

/-- Operands read from a stream (R102): either all of them, and then bytes that come later change nothing; or fewer than
the shape has, and the stream is used up. -/
theorem readOperands_complete_or_short (ts : List OperandType) (bs : Bytes) :
    (∀ c, readOperands ts (bs ++ c) = ((readOperands ts bs).1, (readOperands ts bs).2 ++ c))
      ∨ ((readOperands ts bs).1.length < ts.length ∧ (readOperands ts bs).2 = []) := by
  induction ts generalizing bs with
  | nil => exact .inl fun c => rfl
  | cons t ts ih =>
    cases hread : readOperand t bs with
    | none => exact .inr (by simp [readOperands, hread])
    | some x =>
      obtain ⟨v, rest⟩ := x
      rcases ih rest with complete | ⟨short, used⟩
      · exact .inl fun c => by simp only [readOperands, hread, readOperand_append hread c, complete c]
      · exact .inr (by simpa [readOperands, hread] using ⟨short, used⟩)

/-- A well-formed command cut short behind its opcode has a missing operand, and is taken whole. Were all its operands
there, the bytes cut off would be left behind when the whole command is read. -/
theorem decode_truncated {i : Instr} (hwf : i.wf = true) {b c : Bytes} (hcut : encode i = b ++ c) (hb : b ≠ [])
    (hc : c ≠ []) : ∃ k, decode b = some (.malformed k, []) := by
  obtain ⟨opcode, b, rfl⟩ := List.exists_cons_of_ne_nil hb
  rw [encode, writeTuple, List.cons_append, List.cons.injEq] at hcut
  obtain ⟨rfl, hcut⟩ := hcut
  have whole : readOperands i.opcode.shape (b ++ c) = (i.operands, []) := by
    have := readOperands_write _ _ [] ((tupleBuilds i).1 hwf)
    rwa [List.append_nil, hcut] at this
  rcases readOperands_complete_or_short i.opcode.shape b with complete | ⟨short, used⟩
  · have nothingLeft := congrArg Prod.snd ((complete c).symm.trans whole)
    exact absurd (List.append_eq_nil_iff.mp nothingLeft).2 hc
  · cases hbad : firstBad 0 i.opcode.shape (readOperands i.opcode.shape b).1 with
    | none =>
      have sameLength := ((firstBad_eq_none_iff _ _ _).mp hbad).length_eq
      omega
    | some k => exact ⟨k, by rw [decode_byte_cons, check_of_firstBad hbad, used]⟩

theorem ofTuple_byte (op : Opcode) (args : List Operand) : ofTuple op.byte args = op.check args := by
  simp only [ofTuple, Opcode.ofByte_byte]

theorem ofTuple_illegal {b : Byte} (h : b ∉ Machine.assignedBytes) (args : List Operand) :
    ofTuple b args = .illegal b := by
  simp only [ofTuple, (Opcode.ofByte_eq_none b).mpr h]

theorem decode_illegal {b : Byte} (h : b ∉ Machine.assignedBytes) (rest : Bytes) :
    decode (b :: rest) = some (.illegal b, rest) := by
  simp only [decode, (Opcode.ofByte_eq_none b).mpr h]

/-- A `u1` operand that is neither 0 nor 1 (R89). -/
theorem admits_u1_false {n : Nat} (h : 2 ≤ n) : OperandType.u1.admits (.nat n) = false := decide_eq_false (by omega)

/-- The bytes of a one-flag command whose flag is neither 00 nor 01. -/
theorem decode_flag_outOfRange {op : Opcode} (hop : op.shape = [.u1]) {b : Byte} (hb : 2 ≤ b.toNat) (rest : Bytes) :
    decode (op.byte :: b :: rest) = some (.malformed 0, rest) := by
  have bad : firstBad 0 op.shape [.nat b.toNat] = some 0 := by
    rw [hop, firstBad, admits_u1_false hb]; rfl
  have operands : readOperands op.shape (b :: rest) = ([.nat b.toNat], rest) := by rw [hop]; rfl
  rw [decode_of_readOperands operands, check_of_firstBad bad]

/-- A CRC command's operands as they are read from the stream: the flags are bytes, not yet checked (R89, R102). -/
def crcTuple (width : Byte) (poly init xorOut : Half) (refIn refOut : Byte) (data : Bytes) : List Operand :=
  [.nat width.toNat, .nat poly.toNat, .nat init.toNat, .nat xorOut.toNat, .nat refIn.toNat, .nat refOut.toNat,
    .bytes data]

/-- The bytes of a whole CRC command, whatever its flag bytes are. -/
theorem decode_crc {n0 n1 : Byte} {data : Bytes} (hlen : data.length = n0.toNat + 256 * n1.toNat)
    (width p0 p1 i0 i1 x0 x1 refIn refOut : Byte) (rest : Bytes) :
    decode ([0x01, width, p0, p1, i0, i1, x0, x1, refIn, refOut, n0, n1] ++ data ++ rest)
      = some (Opcode.crc.check
          (crcTuple width (Machine.le16 p0 p1) (Machine.le16 i0 i1) (Machine.le16 x0 x1) refIn refOut data), rest) := by
  have lengthIs : (Machine.le16 n0 n1).toNat = data.length := by rw [Machine.le16_toNat, hlen]
  have operands : readOperands Opcode.crc.shape
      ([width, p0, p1, i0, i1, x0, x1, refIn, refOut, n0, n1] ++ data ++ rest)
        = (crcTuple width (Machine.le16 p0 p1) (Machine.le16 i0 i1) (Machine.le16 x0 x1) refIn refOut data, rest) := by
    simp [Opcode.shape, readOperands, readOperand, lengthIs, crcTuple]
  exact decode_of_readOperands operands

/-- Of a CRC command's operands only the flags can be out of range, once its bytes are all there. -/
theorem firstBad_crcTuple (width : Byte) (poly init xorOut : Half) (refIn refOut : Byte) (data : Bytes) :
    firstBad 0 Opcode.crc.shape (crcTuple width poly init xorOut refIn refOut data)
      = if refIn.toNat < 2 then if refOut.toNat < 2 then none else some 5 else some 4 := by
  have u1 (b : Byte) : (OperandType.u1.admits (.nat b.toNat) = true) = (b.toNat < 2) := decide_eq_true_eq
  have string : OperandType.bytes.admits (.bytes data) = true := rfl
  simp only [Opcode.shape, crcTuple, firstBad, admits_u8_toNat, admits_u16_toNat, u1, string, if_true]

end Sys2Proof

namespace Sys2Proof.Machine

theorem perform_malformed (s : State) (k : Nat) :
    perform (.malformed k) s = .next (s.outputs (.errOperand k) [] []) := rfl

theorem perform_illegal (s : State) (b : Byte) : perform (.illegal b) s = .next (s.outputs (.errIllegal b) [] []) := rfl

theorem step_of_decode_malformed {s : State} {k : Nat} {rest : Bytes} (h : decode s.port = some (.malformed k, rest)) :
    step s = .next ({ s with port := rest }.outputs (.errOperand k) [] []) := step_of_decode h

/-- Settles O6: it holds. -/
theorem operandCheckNamesFirstBad : Obligations.OperandCheckNamesFirstBad := by
  intro op args s
  simp only [operandGood_eq_goodAt, ofTuple_byte]
  refine ⟨fun k before bad inside => ?_, fun count good => ?_⟩
  · have first : firstBad 0 op.shape args = some k := by
      simpa using firstBad_eq_some 0 op.shape args k before bad inside
    rw [check_of_firstBad first, perform_malformed]
  · have hgood := (firstBad_eq_none_iff 0 _ _).mpr (admitted_of_goodAt op.shape args count good)
    rcases check_malformed_or_instr op args with ⟨k, hbad, -⟩ | ⟨i, hop, hargs, -, hcheck⟩
    · cases hgood.symm.trans hbad
    · exact ⟨i, hop, hargs, by rw [hcheck]; rfl⟩

/-- Settles O7: it holds. The cut takes an operand away, so the operand check finds one missing. -/
theorem truncatedStreamIsOperandError : Obligations.TruncatedStreamIsOperandError := by
  rintro i s b c hwf hcut hb hc rfl
  obtain ⟨k, hdecode⟩ := decode_truncated hwf hcut hb hc
  exact ⟨k, step_of_decode_malformed hdecode⟩

/-- Settles O4: it holds. -/
theorem illegalOpcodeChangesNothing : Obligations.IllegalOpcodeChangesNothing := by
  intro b args s h
  rw [ofTuple_illegal h, perform_illegal]

/-- Settles O5: it holds. -/
theorem illegalOpcodeTakesOneByte : Obligations.IllegalOpcodeTakesOneByte := by
  intro s b rest hport h
  exact step_of_decode (hport ▸ decode_illegal h rest)

/-- Settles O59: it holds. The operands are read in full, and the check names the flag. -/
theorem flagByteOutOfRangeIsOperandError : Obligations.FlagByteOutOfRangeIsOperandError := by
  intro s rest
  refine ⟨fun b hb hport => ?_, fun b hb hport => ?_, ?_⟩
  · exact step_of_decode_malformed (hport ▸ decode_flag_outOfRange (op := .setStrict) rfl hb rest)
  · exact step_of_decode_malformed (hport ▸ decode_flag_outOfRange (op := .pairWriteDone) rfl hb rest)
  · intro width p0 p1 i0 i1 x0 x1 refIn refOut n0 n1 data hlen hport
    have decoded := decode_crc hlen width p0 p1 i0 i1 x0 x1 refIn refOut rest
    rw [← hport] at decoded
    refine ⟨fun hIn => step_of_decode_malformed ?_, fun hIn hOut => step_of_decode_malformed ?_⟩ <;>
      rw [decoded, check_of_firstBad]
    · rw [firstBad_crcTuple, if_neg (by omega)]
    · rw [firstBad_crcTuple, if_pos hIn, if_neg (by omega)]

end Sys2Proof.Machine

/-! The spec's own examples (R92, R93, R102) -/

namespace Sys2Proof.Machine

/-- Settles O1: it holds. Each listed string is what `encode` writes for the command, and what follows it; the last
begins with a byte that R88 does not list. -/
theorem listedWordsDecode : Obligations.ListedWordsDecode :=
  ⟨decode_encode_append (.encode 0x0402 0x40 0x04 0x05 []) [] rfl,
    decode_encode_append (.seqReset 0x0100) [] rfl,
    decode_encode_append (.setStrict true) [] rfl,
    decode_encode_append (.feed [0, 0, 0, 0]) [] rfl,
    decode_encode_append (.pairStart [0x41, 0x42, 0x43] [0x31, 0x32, 0x33, 0x34]) [] rfl,
    decode_encode_append (.crc 12 0x1021 0xFFFF 0x0000 false false []) [] rfl,
    decode_encode_append (.pairWriteDone false) [0xF0] rfl,
    decode_encode_append .connReset [] rfl,
    decode_illegal (by decide) []⟩

/-- Settles O58: it holds. Each line is a closed text, so the assembler is run on it. -/
theorem assemblerExamples : Obligations.AssemblerExamples := by
  refine ⟨?_, ?_, ?_, ?_, ?_⟩ <;> decide +kernel

/-! The frame that ENCODE builds (R83, R133) -/

/-- Bytes 1 and 2 as they are written give the length back (R73). -/
theorem lengthField_lengthVersionByte (version : BitVec 6) (len : BitVec 10) :
    lengthField (len.extractLsb' 0 8) (lengthVersionByte version len) = len := by
  have low : (len.extractLsb' 0 8).toNat = len.toNat % 256 := by simp [BitVec.extractLsb'_toNat]
  have high : (lengthVersionByte version len).toNat % 4 = len.toNat / 256 := by
    have := len.isLt
    rw [lengthVersionByte, BitVec.toNat_append, ← Nat.shiftLeft_add_eq_or_of_lt (by omega), Nat.shiftLeft_eq,
      BitVec.extractLsb'_toNat, Nat.shiftRight_eq_div_pow]
    omega
  apply BitVec.eq_of_toNat_eq
  rw [lengthField_toNat, low, high]
  omega

section
variable (body : Bytes) (a b : Byte)

/-- What a trailer of two bytes leaves to be covered, and what it reads as (R82). -/
theorem coveredBytes_append_pair : coveredBytes (body ++ [a, b]) = body := by simp [coveredBytes]

theorem trailerOf_append_pair : trailerOf (body ++ [a, b]) = le16 a b := by
  simp [trailerOf, byteAt]

end

section
variable (target seq : Half) (flags commandSet commandId : Byte) (payload : Bytes)

theorem length_buildFrame :
    (buildFrame target seq flags commandSet commandId payload).length = 13 + payload.length := by
  simp [buildFrame, frameBody, frameHead]
  omega

theorem frameLength_buildFrame (h : payload.length ≤ 1010) :
    frameLength (buildFrame target seq flags commandSet commandId payload) = 13 + payload.length := by
  have field : frameLength (buildFrame target seq flags commandSet commandId payload)
      = (BitVec.ofNat 10 (13 + payload.length)).toNat := congrArg BitVec.toNat (lengthField_lengthVersionByte _ _)
  rw [field, BitVec.toNat_ofNat, Nat.mod_eq_of_lt (by omega)]

theorem headerChecksum_buildFrame : byteAt (buildFrame target seq flags commandSet commandId payload) 3
    = crc8 ((buildFrame target seq flags commandSet commandId payload).take 3) := rfl

theorem trailer_buildFrame : trailerOf (buildFrame target seq flags commandSet commandId payload)
    = crc16 (coveredBytes (buildFrame target seq flags commandSet commandId payload)) := by
  rw [buildFrame, trailerOf_append_pair, coveredBytes_append_pair, le16_lo8_hi8]

/-- Every condition of R83 holds of the frame ENCODE builds. -/
theorem validFrame_buildFrame (h : payload.length ≤ 1010) :
    validFrame (buildFrame target seq flags commandSet commandId payload) = true := by
  have magic : byteAt (buildFrame target seq flags commandSet commandId payload) 0 = Config.magic := rfl
  simp only [validFrame, Bool.and_eq_true, beq_iff_eq, decide_eq_true_eq, length_buildFrame,
    frameLength_buildFrame (h := h) .., Config.minLen, Config.fieldMaxLen, true_and]
  exact ⟨⟨⟨⟨magic, by omega⟩, by omega⟩, headerChecksum_buildFrame ..⟩, trailer_buildFrame ..⟩

end

/-- ENCODE's answer for a payload that fits (R133). -/
theorem exec_encode_of_fits (target : Half) (flags commandSet commandId : Byte) {payload : Bytes} (s : State)
    (h : payload.length ≤ 1010) :
    exec (.encode target flags commandSet commandId payload) s
      = .next ((s.start.setSeq (s.seq + 1)).respond
          (.bytes (buildFrame target s.seq flags commandSet commandId payload))) := by
  rw [exec, execEncode, if_neg (show ¬ Config.maxPayload < payload.length from Nat.not_lt.mpr h), encodeFrame_eq]
  rfl

/-- Settles O25: it holds. -/
theorem encodedFrameIsValid : Obligations.EncodedFrameIsValid := by
  intro target flags commandSet commandId payload s h
  refine ⟨_, _, exec_encode_of_fits target flags commandSet commandId s h, rfl,
    validFrame_buildFrame (h := h) .., ?_, ?_⟩
  · rw [← frameLength_eq, frameLength_buildFrame (h := h) .., length_buildFrame]
  · exact length_buildFrame ..

end Sys2Proof.Machine

/-! PROOFS. The checksum family (40_checksum.md): the right-shifting form of the CRC (O18), and what the commands CRC,
CRC8 and CRC16 answer (O15, O16, O17, O19, O20). -/

namespace Sys2Proof.Machine

/-! The right-shifting form (R118). `reflect` carries each step of the left-shifting form to the step of the right-shifting
form, so it carries the whole fold over the data. -/

section
variable {w : Nat}

/-- The bits of a reflected value, by index. -/
theorem getLsbD_reflect (v : BitVec w) (i : Nat) : (reflect v).getLsbD i = v.getMsbD i := BitVec.getLsbD_reverse

theorem reflect_xor (a b : BitVec w) : reflect (a ^^^ b) = reflect a ^^^ reflect b := by
  apply BitVec.eq_of_getLsbD_eq
  intro i _
  rw [BitVec.getLsbD_xor, getLsbD_reflect, getLsbD_reflect, getLsbD_reflect, BitVec.getMsbD_xor]

/-- A left shift read from the other end is a right shift. -/
theorem reflect_shiftLeft (v : BitVec w) (n : Nat) : reflect (v <<< n) = reflect v >>> n := by
  apply BitVec.eq_of_getLsbD_eq
  intro i _
  rw [BitVec.getLsbD_ushiftRight, getLsbD_reflect, getLsbD_reflect, BitVec.getMsbD_shiftLeft, Nat.add_comm]

theorem reflect_crcShift (poly reg : BitVec w) :
    reflect (crcShift poly reg) = rcrcShift (reflect poly) (reflect reg) := by
  have outgoing : (reflect reg).getLsbD 0 = reg.msb := getLsbD_reflect reg 0
  rw [crcShift, rcrcShift, outgoing]
  split
  · rw [reflect_xor, reflect_shiftLeft]
  · rw [reflect_shiftLeft]

theorem reflect_crcShifts (poly : BitVec w) (n : Nat) (reg : BitVec w) :
    reflect (crcShifts poly n reg) = rcrcShifts (reflect poly) n (reflect reg) := by
  induction n generalizing reg with
  | zero => rfl
  | succ n ih => rw [crcShifts, rcrcShifts, ih, reflect_crcShift]

/-- A reflected byte at the top of the register is the byte itself at the bottom of the reflected register. -/
theorem reflect_topByte (hw : 8 ≤ w) (d : Byte) :
    reflect ((reflect d).setWidth w <<< (w - 8)) = d.setWidth w := by
  rw [reflect_shiftLeft]
  apply BitVec.eq_of_getLsbD_eq
  intro i hi
  have index : w - 8 + i + 8 - w = i := by omega
  have bit : (reflect d).getMsbD i = d.getLsbD i := BitVec.getMsbD_reverse
  rw [BitVec.getLsbD_ushiftRight, getLsbD_reflect, BitVec.getLsbD_setWidth, BitVec.getMsbD_setWidth, index, bit,
    decide_eq_true (Nat.le_add_right _ i), decide_eq_true hi]

theorem reflect_crcByte (hw : 8 ≤ w) (poly reg : BitVec w) (d : Byte) :
    reflect (crcByte poly true reg d) = rcrcShifts (reflect poly) 8 (reflect reg ^^^ d.setWidth w) := by
  rw [crcByte, if_pos rfl, reflect_crcShifts, reflect_xor, reflect_topByte hw]

/-- R118 for every register of at least one byte. -/
theorem crc_eq_rcrc (hw : 8 ≤ w) (poly init xorOut : BitVec w) (data : Bytes) :
    crc poly init xorOut true true data = rcrc poly init xorOut data := by
  rw [crc, if_pos rfl, rcrc, crcReg, List.foldl_hom reflect fun reg d => (reflect_crcByte hw poly reg d).symm]

end

/-- Settles O18: it holds. -/
theorem crcEqualsRightShiftingForm : Obligations.CrcEqualsRightShiftingForm :=
  ⟨crc_eq_rcrc (by decide), crc_eq_rcrc (by decide)⟩

/-! The parameter checks (R113) -/

section
variable (poly init xorOut : Half)

theorem badParam_of_width {width : Byte} (h8 : width ≠ 8) (h16 : width ≠ 16) :
    badParam width poly init xorOut = some .width := if_pos ⟨h8, h16⟩

theorem widerThan_eight (v : Half) : widerThan 8 v = true ↔ 256 ≤ v.toNat := decide_eq_true_iff

theorem widerThan_sixteen (v : Half) : widerThan 16 v = false := decide_eq_false (Nat.not_le.mpr v.isLt)

theorem badParam_eight : badParam 8 poly init xorOut
    = if 256 ≤ poly.toNat then some .poly
      else if 256 ≤ init.toNat then some .init
      else if 256 ≤ xorOut.toNat then some .xorOut
      else none := by
  simp only [badParam, widerThan_eight, ne_eq, not_true_eq_false, false_and, if_false]

theorem badParam_sixteen : badParam 16 poly init xorOut = none := by
  simp only [badParam, widerThan_sixteen, ne_eq, not_true_eq_false, and_false, if_false, Bool.false_eq_true]

end

/-- Parameters given with 8 bits pass the checks of width 8. -/
theorem badParam_eight_setWidth (poly init xorOut : BitVec 8) :
    badParam 8 (poly.setWidth 16) (init.setWidth 16) (xorOut.setWidth 16) = none := by
  have fits (v : BitVec 8) : ¬ 256 ≤ (v.setWidth 16).toNat := by
    rw [BitVec.toNat_setWidth_of_le (by decide)]
    exact Nat.not_le.mpr v.isLt
  rw [badParam_eight, if_neg (fits _), if_neg (fits _), if_neg (fits _)]

/-! What CRC answers (R113, R114) -/

section
variable {width : Byte} {poly init xorOut : Half}

theorem exec_crc_of_badParam {field : ParamField} (h : badParam width poly init xorOut = some field)
    (refIn refOut : Bool) (data : Bytes) (s : State) :
    exec (.crc width poly init xorOut refIn refOut data) s = .next (s.outputs (.errParam field) [] []) := by
  rw [exec, execCrc, h]
  rfl

theorem exec_crc_of_accepted (h : badParam width poly init xorOut = none)
    (refIn refOut : Bool) (data : Bytes) (s : State) :
    exec (.crc width poly init xorOut refIn refOut data) s
      = .next (s.outputs (.ok (.u16 (crcGeneric width poly init xorOut refIn refOut data))) [] []) := by
  rw [exec, execCrc, h]
  rfl

end

section
variable (refIn refOut : Bool) (data : Bytes)

/-- At width 8 the CRC is that of the parameters' low bytes, zero-extended. -/
theorem crcGeneric_eight_setWidth (poly init xorOut : BitVec 8) :
    crcGeneric 8 (poly.setWidth 16) (init.setWidth 16) (xorOut.setWidth 16) refIn refOut data
      = (crc poly init xorOut refIn refOut data).setWidth 16 := by
  have low (v : BitVec 8) : (v.setWidth 16).setWidth 8 = v := by
    rw [BitVec.setWidth_setWidth_of_le _ (by decide), BitVec.setWidth_eq]
  rw [crcGeneric, if_pos rfl, low, low, low]

theorem crcGeneric_sixteen (poly init xorOut : Half) :
    crcGeneric 16 poly init xorOut refIn refOut data = crc poly init xorOut refIn refOut data :=
  if_neg (by decide)

end

/-- Settles O15: it holds. Both kinds of operands pass the checks of R113. -/
theorem crcCompletes : Obligations.CrcCompletes := by
  constructor
  · intro poly init xorOut refIn refOut data s
    rw [exec_crc_of_accepted (badParam_sixteen ..), crcGeneric_sixteen]
  · intro poly init xorOut refIn refOut data s
    rw [exec_crc_of_accepted (badParam_eight_setWidth ..), crcGeneric_eight_setWidth]

/-- Settles O16: it holds. Each hypothesis selects one branch of the checks. -/
theorem crcParameterErrors : Obligations.CrcParameterErrors := by
  intro width poly init xorOut refIn refOut data s
  refine ⟨fun h8 h16 => ?_, ?_, ?_, ?_⟩
  · exact exec_crc_of_badParam (badParam_of_width _ _ _ h8 h16) ..
  · rintro rfl hpoly
    exact exec_crc_of_badParam (by rw [badParam_eight, if_pos hpoly]) ..
  · rintro rfl hpoly hinit
    exact exec_crc_of_badParam (by rw [badParam_eight, if_neg hpoly.not_ge, if_pos hinit]) ..
  · rintro rfl hpoly hinit hxorOut
    exact exec_crc_of_badParam
      (by rw [badParam_eight, if_neg hpoly.not_ge, if_neg hinit.not_ge, if_pos hxorOut]) ..

/-! What CRC8 and CRC16 answer (R116, R117) -/

theorem exec_crc8 (data : Bytes) (s : State) :
    exec (.crc8 data) s = .next (s.outputs (.ok (.u16 ((crc8 data).setWidth 16))) [] []) := rfl

theorem exec_crc16 (data : Bytes) (s : State) :
    exec (.crc16 data) s = .next (s.outputs (.ok (.u16 (crc16 data))) [] []) := rfl

/-- Settles O20: it holds. Both sides of each equality put out the same checksum. -/
theorem fixedCrcCommands : Obligations.FixedCrcCommands := by
  intro data s
  obtain ⟨generic16, generic8⟩ := crcCompletes
  exact ⟨exec_crc8 data s, (exec_crc8 data s).trans (generic8 0x31 0xEE 0x00 true true data s).symm,
    exec_crc16 data s, (exec_crc16 data s).trans (generic16 0x1021 0x496C 0x0000 true true data s).symm⟩

/-- Settles O17: it holds. No byte enters the register, so only the output stage is left. -/
theorem crcOfEmptyInput : Obligations.CrcOfEmptyInput := by
  have empty8 : (crc8 []).setWidth 16 = 0x0077#16 := by decide
  have empty16 : crc16 [] = 0x3692#16 := by decide
  refine ⟨fun _ _ _ _ _ => rfl, fun _ _ _ _ _ => rfl, fun s => ?_, fun s => ?_⟩
  · rw [exec_crc8, empty8]
    rfl
  · rw [exec_crc16, empty16]
    rfl

/-- Settles O19: it holds. The two checksums of the nine bytes are computed. -/
theorem crcCheckValues : Obligations.CrcCheckValues := by
  have check8 : (crc8 [0x31, 0x32, 0x33, 0x34, 0x35, 0x36, 0x37, 0x38, 0x39]).setWidth 16 = 0x00FB#16 := by
    decide +kernel
  have check16 : crc16 [0x31, 0x32, 0x33, 0x34, 0x35, 0x36, 0x37, 0x38, 0x39] = 0x7109#16 := by
    decide +kernel
  intro s
  exact ⟨by rw [exec_crc8, check8]; rfl, by rw [exec_crc16, check16]; rfl⟩

end Sys2Proof.Machine

/-! PROOFS. The codec family (41_codec.md): the sequence register (O21), what ENCODE answers and lays out (O23, O24, O27),
what DECODE answers (O28, O29, O30, O31), DECODE of ENCODE's frame (O26), and STRICT over every later command (O22). -/

namespace Sys2Proof.Machine

/-- Settles O21: it holds. Each command has one branch. -/
theorem sequenceRegisterPorts : Obligations.SequenceRegisterPorts := fun _ _ => ⟨rfl, rfl⟩

/-! The layout of the frame that ENCODE builds (R71, R133) -/

/-- The byte behind the length field's two high bits, as arithmetic (R73). -/
theorem lengthVersionByte_toNat (version : BitVec 6) (len : BitVec 10) :
    (lengthVersionByte version len).toNat = 4 * version.toNat + len.toNat / 256 := by
  have := len.isLt
  rw [lengthVersionByte, BitVec.toNat_append, BitVec.extractLsb'_toNat, Nat.shiftRight_eq_div_pow,
    ← Nat.shiftLeft_add_eq_or_of_lt (by omega), Nat.shiftLeft_eq]
  omega

section
variable (target seq : Half) (flags commandSet commandId : Byte) (payload : Bytes)

theorem length_frameBody :
    (frameBody target seq flags commandSet commandId payload).length = 11 + payload.length := by
  simp [frameBody, frameHead]
  omega

/-- Behind the eleven header bytes, in front of the trailer, stands the payload (R81, R82). -/
theorem payload_buildFrame :
    (coveredBytes (buildFrame target seq flags commandSet commandId payload)).drop 11 = payload := by
  rw [buildFrame, coveredBytes_append_pair]
  rfl

/-- Everything in front of the trailer is the body. -/
theorem take_buildFrame : (buildFrame target seq flags commandSet commandId payload).take (11 + payload.length)
    = frameBody target seq flags commandSet commandId payload :=
  List.take_left' (length_frameBody ..)

/-- The two bytes of the trailer (R82). -/
theorem byteAt_buildFrame_trailer (k : Nat) :
    byteAt (buildFrame target seq flags commandSet commandId payload) (11 + payload.length + k)
      = byteAt [lo8 (crc16 (frameBody target seq flags commandSet commandId payload)),
          hi8 (crc16 (frameBody target seq flags commandSet commandId payload))] k := by
  rw [← length_frameBody target seq flags commandSet commandId payload]
  simp [byteAt, List.getD, buildFrame, List.getElem?_append_right]

/-- Every row of R71's table. The length is the only field that does not fit for every payload. -/
theorem frameLayout_buildFrame (h : payload.length ≤ 1010) :
    FrameLayout (buildFrame target seq flags commandSet commandId payload)
      target seq flags commandSet commandId payload := by
  have len : (BitVec.ofNat 10 (13 + payload.length)).toNat = 13 + payload.length := by
    rw [BitVec.toNat_ofNat, Nat.mod_eq_of_lt (by omega)]
  exact {
    lengthIs := length_buildFrame ..
    magic := rfl
    lengthLow := by
      have low : byteAt (buildFrame target seq flags commandSet commandId payload) 1
        = (BitVec.ofNat 10 (13 + payload.length)).extractLsb' 0 8 := rfl
      rw [low, BitVec.extractLsb'_toNat, len, length_buildFrame, Nat.shiftRight_zero]
    lengthHighVersion := by
      have high : byteAt (buildFrame target seq flags commandSet commandId payload) 2
        = lengthVersionByte 1 (BitVec.ofNat 10 (13 + payload.length)) := rfl
      rw [high, lengthVersionByte_toNat, len, length_buildFrame]
      rfl
    headerChecksum := headerChecksum_buildFrame ..
    sender := lo8_toNat target
    receiver := hi8_toNat target
    sequenceHigh := hi8_toNat seq
    sequenceLow := lo8_toNat seq
    flagsIs := rfl
    commandSetIs := rfl
    commandIdIs := rfl
    payloadIs := List.take_left
    trailerLow := by
      rw [take_buildFrame]
      exact (congrArg BitVec.toNat (byteAt_buildFrame_trailer _ _ _ _ _ payload 0)).trans (lo8_toNat _)
    trailerHigh := by
      rw [take_buildFrame, show 12 + payload.length = 11 + payload.length + 1 by omega]
      exact (congrArg BitVec.toNat (byteAt_buildFrame_trailer _ _ _ _ _ payload 1)).trans (hi8_toNat _) }

end

/-! What ENCODE answers (R133, R136) -/

/-- ENCODE's answer for a payload that does not fit (R136; entry 10). -/
theorem exec_encode_of_long (target : Half) (flags commandSet commandId : Byte) {payload : Bytes} (s : State)
    (h : 1010 < payload.length) :
    exec (.encode target flags commandSet commandId payload) s
      = .next (s.outputs (.errLength .payload payload.length) [] []) := by
  rw [exec, execEncode, if_pos (show Config.maxPayload < payload.length from h)]
  rfl

/-- Settles O24: it holds. -/
theorem encodeRefusesLongPayload : Obligations.EncodeRefusesLongPayload :=
  fun target flags commandSet commandId _ s h => exec_encode_of_long target flags commandSet commandId s h

/-- Settles O23: it holds. -/
theorem encodeBuildsTheFrame : Obligations.EncodeBuildsTheFrame := by
  intro target flags commandSet commandId payload s
  refine ⟨fun fits => ⟨_, frameLayout_buildFrame (h := fits) .., ?_⟩, fun long => ⟨.payload, ?_⟩⟩
  · exact exec_encode_of_fits target flags commandSet commandId s fits
  · exact exec_encode_of_long target flags commandSet commandId s long

/-! Runs of commands (R60) -/

theorem runCommands_cons {i : Instr} {is : List Instr} {s t u : State} {outs : List Output}
    (first : exec i s = .next t) (others : runCommands is t = some (outs, u)) :
    runCommands (i :: is) s = some (t.out :: outs, u) := by
  simp only [runCommands, first, others]

/-- What every command of a list keeps, a run of the list keeps; and the run does not stop. -/
theorem runCommands_preserves {P : State → Prop} {cmds : List Instr}
    (keeps : ∀ i ∈ cmds, ∀ s, P s → ∃ t, exec i s = .next t ∧ P t) (s : State) (hs : P s) :
    ∃ outs u, runCommands cmds s = some (outs, u) ∧ P u := by
  induction cmds generalizing s with
  | nil => exact ⟨[], s, rfl, hs⟩
  | cons i is ih =>
    obtain ⟨t, first, ht⟩ := keeps i List.mem_cons_self s hs
    obtain ⟨outs, u, others, hu⟩ := ih (fun j hj => keeps j (List.mem_cons_of_mem i hj)) t ht
    exact ⟨_, u, runCommands_cons first others, hu⟩

/-- Settles O27: it holds, by induction on the list: each ENCODE hands the next one its SEQ raised by one. -/
theorem encodesNumberSuccessively : Obligations.EncodesNumberSuccessively := by
  intro jobs
  induction jobs with
  | nil => exact fun s _ => ⟨[], s, rfl, (BitVec.add_zero s.seq).symm, nofun⟩
  | cons job jobs ih =>
    intro s hfits
    obtain ⟨fits, fitsRest⟩ := List.forall_mem_cons.mp hfits
    obtain ⟨f, layout, first⟩ := (encodeBuildsTheFrame job.1 job.2.1 job.2.2.1 job.2.2.2.1 job.2.2.2.2 s).1 fits
    obtain ⟨outs, t, others, seqEnd, frames⟩ := ih _ fitsRest
    have shift (k : Nat) : s.seq + 1 + BitVec.ofNat 16 k = s.seq + BitVec.ofNat 16 (k + 1) := by
      rw [BitVec.ofNat_add, BitVec.add_assoc, BitVec.add_comm 1]
      rfl
    refine ⟨_, t, runCommands_cons first others, seqEnd.trans (shift jobs.length), fun k j hj => ?_⟩
    cases k with
    | zero =>
      obtain rfl : job = j := by simpa using hj
      exact ⟨_, f, rfl, rfl, (BitVec.add_zero s.seq).symm ▸ layout⟩
    | succ k =>
      obtain ⟨o, g, output, response, layout⟩ := frames k j hj
      exact ⟨o, g, output, response, shift k ▸ layout⟩

/-! What DECODE answers (R138 to R142) -/

section
variable {d : Bytes} {s : State}

theorem exec_decode_of_ok {r : FrameRecord} (h : decodeCore d s.strict = .ok r) :
    exec (.decode d) s = .next (s.outputs (.ok (.frame r)) [] []) := by
  rw [exec, execDecode, h]
  rfl

theorem exec_decode_of_error {e : Response} (h : decodeCore d s.strict = .error e) :
    exec (.decode d) s = .next (s.outputs e [] []) := by
  rw [exec, execDecode, h]
  rfl

end

/-- Settles O28: it holds. Each hypothesis selects one branch of `DecodeCore`. -/
theorem decodeErrorsInOrder : Obligations.DecodeErrorsInOrder := by
  intro d s
  refine ⟨fun short => ?_, fun long magic => ?_, fun long magic claim => ?_, fun long magic claim missing => ?_⟩
    <;> refine exec_decode_of_error ?_ <;> rw [decodeCore_eq]
  · rw [if_pos short]
  · rw [if_neg long.not_gt, if_pos magic]
  · rw [if_neg long.not_gt, if_neg (not_not.mpr magic), if_pos claim]
  · rw [if_neg long.not_gt, if_neg (not_not.mpr magic), if_neg claim.not_gt, if_pos missing]

/-- The input holds a frame by magic and length (R144). -/
structure HoldsFrame (d : Bytes) : Prop where
  long : 13 ≤ d.length
  magic : byteAt d 0 = 0x55
  claim : 13 ≤ headerLength d
  complete : headerLength d ≤ d.length

/-- A report has a bit where a checksum is wrong (R141). -/
theorem checksumReport_eq_zero_iff (f : Bytes) : checksumReport f = 0 ↔ reportOf f = 0 := by
  rw [← checksumReport_toNat, ← BitVec.toNat_inj]
  rfl

section
variable {d : Bytes} {strict : Bool}

theorem HoldsFrame.isCandidate_take (h : HoldsFrame d) : isCandidate (d.take (headerLength d)) = true :=
  Machine.isCandidate_take d h.magic h.claim h.complete

/-- On such input only the checksums are left to check. -/
theorem HoldsFrame.decodeCore_eq_candidate (h : HoldsFrame d) :
    decodeCore d strict = decodeCore (d.take (headerLength d)) strict := by
  rw [decodeCore_candidate _ _ h.isCandidate_take, decodeCore_eq, if_neg h.long.not_gt,
    if_neg (not_not.mpr h.magic), if_neg h.claim.not_gt, if_neg h.complete.not_gt]

theorem decodeCore_candidate_ok (h : isCandidate d = true) (accepted : strict = false ∨ reportOf d = 0) :
    decodeCore d strict = .ok (fieldsOf d) := by
  rw [decodeCore_candidate d strict h, if_neg]
  rintro ⟨rfl, wrong⟩
  exact accepted.elim nofun fun right => wrong ((checksumReport_eq_zero_iff d).mpr right)

theorem decodeCore_candidate_mismatch (h : isCandidate d = true) (wrong : reportOf d ≠ 0) :
    decodeCore d true = .error (.decChecksum (checksumReport d)) := by
  rw [decodeCore_candidate d true h, if_pos ⟨rfl, fun c => wrong ((checksumReport_eq_zero_iff d).mp c)⟩]

theorem HoldsFrame.decodeCore_ok (h : HoldsFrame d)
    (accepted : strict = false ∨ reportOf (d.take (headerLength d)) = 0) :
    decodeCore d strict = .ok (fieldsOf (d.take (headerLength d))) :=
  h.decodeCore_eq_candidate.trans (decodeCore_candidate_ok h.isCandidate_take accepted)

/-- `DecodeCore` returns a record only of input that holds a frame. -/
theorem holdsFrame_of_decodeCore_ok {r : FrameRecord} (h : decodeCore d strict = .ok r) : HoldsFrame d := by
  rw [decodeCore_eq] at h
  split_ifs at h with short magic claim missing
  exact ⟨not_lt.mp short, not_not.mp magic, not_lt.mp claim, not_lt.mp missing⟩

end

/-- Settles O29: it holds. -/
theorem decodeReturnsTheRecord : Obligations.DecodeReturnsTheRecord :=
  fun _ _ long magic claim complete accepted =>
    have holds : HoldsFrame _ := ⟨long, magic, claim, complete⟩
    ⟨_, fieldsOf_record _, exec_decode_of_ok (holds.decodeCore_ok accepted)⟩

/-- Settles O30: it holds. -/
theorem strictDecodeReportsChecksums : Obligations.StrictDecodeReportsChecksums := by
  intro d s long magic claim complete strict wrong
  have holds : HoldsFrame d := ⟨long, magic, claim, complete⟩
  have mismatch : decodeCore d s.strict = .error (.decChecksum (checksumReport (d.take (headerLength d)))) := by
    rw [strict, holds.decodeCore_eq_candidate, decodeCore_candidate_mismatch holds.isCandidate_take wrong]
  exact ⟨_, checksumReport_toNat _, exec_decode_of_error mismatch, _, _, fieldsOf_record _,
    exec_decode_of_ok (s := { s with strict := false }) (holds.decodeCore_ok (.inl rfl)), rfl⟩

/-- Settles O31: it holds. -/
theorem permissiveDecodeAccepts : Obligations.PermissiveDecodeAccepts := by
  intro d
  constructor
  · rintro ⟨r, accepted⟩
    obtain ⟨long, magic, claim, complete⟩ := holdsFrame_of_decodeCore_ok accepted
    exact ⟨long, magic, claim, complete⟩
  · rintro ⟨long, magic, claim, complete⟩
    exact ⟨_, HoldsFrame.decodeCore_ok ⟨long, magic, claim, complete⟩ (.inl rfl)⟩

/-! DECODE of ENCODE's frame (R137) -/

/-- A valid frame decodes to its record, in either mode (R83, R138). -/
theorem decodeCore_of_validFrame {f : Bytes} (strict : Bool) (h : validFrame f = true) :
    decodeCore f strict = .ok (fieldsOf f) := by
  simp only [validFrame, Bool.and_eq_true, beq_iff_eq, decide_eq_true_eq, frameLength_eq] at h
  obtain ⟨⟨⟨⟨⟨length, magic⟩, atLeast⟩, -⟩, header⟩, trailer⟩ := h
  have candidate : isCandidate f = true := by
    simp only [isCandidate, Bool.and_eq_true, beq_iff_eq, decide_eq_true_eq]
    exact ⟨⟨magic, length ▸ atLeast⟩, length.symm⟩
  have noReport : checksumReport f = 0 := by
    rw [checksumReport, header, trailer, bne_self_eq_false, bne_self_eq_false]
    rfl
  exact decodeCore_candidate_ok candidate (.inr ((checksumReport_eq_zero_iff f).mp noReport))

/-- Settles O26: it holds. The frame is valid, so DECODE returns its record, and each field of the record reads what the
layout wrote. -/
theorem decodeOfEncodedFrame : Obligations.DecodeOfEncodedFrame := by
  intro target flags commandSet commandId payload s mode fits
  have encoded := exec_encode_of_fits target flags commandSet commandId s fits
  have decoded := decodeCore_of_validFrame mode
    (validFrame_buildFrame target s.seq flags commandSet commandId payload fits)
  refine ⟨_, _, _, _, encoded, rfl, exec_decode_of_ok decoded, rfl, ?target, rfl, rfl, rfl, ?payload, ?sequenceId, rfl,
    ?version, ?length, rfl⟩
  case target => exact le16_lo8_hi8 target
  case payload => exact payload_buildFrame ..
  case sequenceId => exact be16_hi8_lo8 s.seq
  case version => exact BitVec.extractLsb'_append_eq_left
  case length => exact frameLength_buildFrame (h := fits) ..

/-! STRICT over later commands (R145) -/

theorem eq_setStrict_of_opcode {i : Instr} (h : i.opcode = .setStrict) : ∃ v, i = .setStrict v := by
  cases i with
  | setStrict v => exact ⟨v, rfl⟩
  | _ => cases h

/-- Commands that are not SET_STRICT keep STRICT, CONN_RESET among them (R23). -/
theorem runCommands_keeps_strict {cmds : List Instr} (h : ∀ v, .setStrict v ∉ cmds) (s : State) :
    ∃ outs u, runCommands cmds s = some (outs, u) ∧ u.strict = s.strict := by
  refine runCommands_preserves (P := fun t => t.strict = s.strict) (fun i mem t ht => ?_) s rfl
  obtain ⟨u, answer, frame⟩ := exec_framed t i
  obtain ⟨-, -, keepsStrict, -⟩ := frame.unchanged
  refine ⟨u, answer, (keepsStrict fun isSetStrict => ?_).trans ht⟩
  obtain ⟨v, rfl⟩ := eq_setStrict_of_opcode isSetStrict
  exact h v mem

section
variable {f : Bytes} {s : State}

theorem exec_pairRx_of_ok {r : FrameRecord} (h : decodeCore f s.strict = .ok r) :
    exec (.pairRx f) s = .next ((s.start.offer Config.params r).respond .none) := by
  rw [exec, execPairRx, h]

theorem exec_pairRx_of_error {e : Response} (h : decodeCore f s.strict = .error e) :
    exec (.pairRx f) s = .next (s.outputs e [] []) := by
  rw [exec, execPairRx, h]
  rfl

/-- FEED of one candidate from an empty remainder delivers it and keeps nothing (R177 to R179). -/
theorem exec_feed_candidate (hf : isCandidate f = true) (empty : s.acc = []) (hcap : ¬ ExceedsCap [] f) :
    exec (.feed f) s = .next (((s.start.deliver Config.params f).setAcc []).respond (.bytes [])) := by
  have fits : ¬ overflows Config.params s.acc f = true := by rwa [empty, overflows_iff]
  have loop : feedLoop Config.params f.length f s.start = ([], s.start.deliver Config.params f) := by
    simpa [feedLoop] using feedLoop_candidate Config.params f.length 0 f [] s.start hf (by simp) le_rfl
  rw [exec, execFeed, if_neg fits, State.feedChunk, start_acc, empty, List.nil_append, loop]

end

/-- The events of `Offer` are outcomes only (R212). -/
theorem offer_events (p : Config.Params) (s : State) (r : FrameRecord) :
    ∃ es, (s.offer p r).out.events = s.out.events ++ es ∧ rawsOf es = [] := by
  rcases offer_cases p s r with e | ⟨-, e⟩ | ⟨-, e⟩ <;> rw [e]
  · exact ⟨[], (List.append_nil _).symm, rfl⟩
  · exact ⟨[.outcome .paired], rfl, rfl⟩
  · exact ⟨[.outcome .pairingRequired], rfl, rfl⟩

/-- Settles O22: it holds. STRICT is kept up to the state where the candidate comes, and there DECODE, PAIR_RX and FEED all
go by what `DecodeCore` answers for it. -/
theorem setStrictGovernsDecode : Obligations.SetStrictGovernsDecode := by
  intro value s
  refine ⟨_, rfl, rfl, fun cmds others => ?_⟩
  obtain ⟨outs, u, run, strict⟩ := runCommands_keeps_strict others ({ s with strict := value }.outputs (.ok .none) [] [])
  refine ⟨outs, u, run, strict, fun f candidate wrong => ?_⟩
  obtain ⟨w, fed, -⟩ := exec_framed u (.feed f)
  have fedFromEmpty (empty : u.acc = []) (hcap : ¬ ExceedsCap [] f) :
      w = ((u.start.deliver Config.params f).setAcc []).respond (.bytes []) :=
    Host.Outcome.next.inj (fed.symm.trans (exec_feed_candidate candidate empty hcap))
  constructor
  · rintro rfl
    have mismatch : decodeCore f u.strict = .error (.decChecksum (checksumReport f)) := by
      rw [strict]
      exact decodeCore_candidate_mismatch candidate wrong
    refine ⟨checksumReport f, checksumReport_toNat f, exec_decode_of_error mismatch, exec_pairRx_of_error mismatch, w, fed,
      fun empty hcap => ?_⟩
    rw [fedFromEmpty empty hcap, State.deliver, start_strict, mismatch, ← empty]
    rfl
  · rintro rfl
    have accepted : decodeCore f u.strict = .ok (fieldsOf f) := decodeCore_candidate_ok candidate (.inl strict)
    refine ⟨fieldsOf f, fieldsOf_record f, exec_decode_of_ok accepted, ⟨_, exec_pairRx_of_ok accepted, rfl⟩, w, fed,
      fun empty hcap => ?_⟩
    obtain ⟨es, events, onlyOutcomes⟩ := offer_events Config.params (u.start.emit (.frameOut (fieldsOf f))) (fieldsOf f)
    refine ⟨es, ?_, onlyOutcomes⟩
    rw [fedFromEmpty empty hcap, State.deliver, start_strict, accepted]
    exact events

end Sys2Proof.Machine

/-! PROOFS. The framer family (42_framer.md): what FEED does for a chunk, in terms of its loop (O32, O34, O37, O38), how the
loop splits what it takes in and what each candidate does (O33), and what that says of given frames (O35, O36, O39). -/

namespace Sys2Proof.Machine

/-! What FEED answers (R170, R171, R178) -/

section
variable {s : State} {chunk : Bytes}

/-- FEED's answer where the chunk would exceed the capacity (R171). -/
theorem exec_feed_of_exceeds (h : ExceedsCap s.acc chunk) :
    exec (.feed chunk) s = .next (s.outputs (.errOverflow s.acc.length chunk.length) [] []) := by
  rw [exec, execFeed, if_pos ((overflows_iff _ _).mpr h)]
  rfl

/-- FEED's answer where the chunk fits: the loop over `ACC` and the chunk. -/
theorem exec_feed_of_fits (h : ¬ ExceedsCap s.acc chunk) :
    exec (.feed chunk) s = .next (s.start.feedChunk Config.params chunk) := by
  rw [exec, execFeed, if_neg (mt (overflows_iff _ _).mp h)]

/-- FEED always answers a next state; what holds after the loop holds of it where the chunk fits. -/
theorem exec_feed_answers {C : Prop} {Q : State → Prop} (fits : C → ¬ ExceedsCap s.acc chunk)
    (h : C → Q (s.start.feedChunk Config.params chunk)) : ∃ t, exec (.feed chunk) s = .next t ∧ (C → Q t) := by
  by_cases cap : ExceedsCap s.acc chunk
  · exact ⟨_, exec_feed_of_exceeds cap, fun c => absurd cap (fits c)⟩
  · exact ⟨_, exec_feed_of_fits cap, h⟩

/-- A working string that is not longer fits as well. -/
theorem not_exceedsCap_of_length_le {acc chunk acc' chunk' : Bytes} (h : ¬ ExceedsCap acc chunk)
    (le : acc'.length + chunk'.length ≤ acc.length + chunk.length) : ¬ ExceedsCap acc' chunk' :=
  fun ⟨cap, finite, exceeded⟩ => h ⟨cap, finite, exceeded.trans_le le⟩

/-- What FEED ends with, from what the loop answers on the working string `r`, whichever fuel shows it. -/
theorem feedChunk_of_loop {p : Config.Params} {n : Nat} {r acc : Bytes} {t : State} (working : s.acc ++ chunk = r)
    (fuel : r.length ≤ n) (loop : feedLoop p n r s = (acc, t)) :
    s.feedChunk p chunk = (t.setAcc acc).respond (.bytes acc) := by
  subst working
  rw [State.feedChunk, feedLoop_fuel p _ n _ s le_rfl fuel, loop]

end

/-! The remainder (R183, R184, R187) -/

theorem remainderShape_iff (acc : Bytes) : remainderShape acc = true ↔ acc.length < 13
    ∨ (byteAt acc 0 = 0x55 ∧ 13 ≤ headerLength acc ∧ headerLength acc ≤ 1023 ∧ acc.length < headerLength acc) := by
  simp [remainderShape, frameLength_eq, and_assoc]

/-- One pass of the loop, with the length field as arithmetic and the constants as numbers (R172 to R177). -/
theorem feedLoop_succ (p : Config.Params) (n : Nat) (r : Bytes) (s : State) :
    feedLoop p (n + 1) r s =
      if r.length < 13 then (r, s)
      else if dropToMagic r = [] then ([], s)
      else if (dropToMagic r).length < 4 then (dropToMagic r, s)
      else if headerLength (dropToMagic r) < 13 ∨ 1024 < headerLength (dropToMagic r) then
        feedLoop p n ((dropToMagic r).drop 1) s
      else if (dropToMagic r).length < headerLength (dropToMagic r) then (dropToMagic r, s)
      else feedLoop p n ((dropToMagic r).drop (headerLength (dropToMagic r)))
        (s.deliver p ((dropToMagic r).take (headerLength (dropToMagic r)))) := by
  rw [feedLoop, frameLength_eq]
  rfl

/-- The loop stops at once on a remainder. -/
theorem feedLoop_of_remainderShape (p : Config.Params) {acc : Bytes} (s : State) (h : remainderShape acc = true) :
    feedLoop p (acc.length + 1) acc s = (acc, s) := by
  rw [feedLoop_succ]
  by_cases short : acc.length < 13
  · rw [if_pos short]
  · obtain ⟨magic, claim, atMost, missing⟩ := ((remainderShape_iff acc).mp h).resolve_left short
    have nonempty : acc ≠ [] := List.ne_nil_of_length_pos (by omega)
    rw [dropToMagic_of_magic acc nonempty magic, if_neg short, if_neg nonempty, if_neg (by omega), if_neg (by omega),
      if_pos missing]

/-- A working string of a remainder's shape is kept as it is. -/
theorem feedChunk_of_remainderShape (p : Config.Params) {s : State} {chunk : Bytes}
    (h : remainderShape (s.acc ++ chunk) = true) :
    s.feedChunk p chunk = (s.setAcc (s.acc ++ chunk)).respond (.bytes (s.acc ++ chunk)) :=
  feedChunk_of_loop rfl (Nat.le_succ _) (feedLoop_of_remainderShape p s h)

section
variable (p : Config.Params) (s : State) (chunk : Bytes)

theorem feedChunk_acc : (s.feedChunk p chunk).acc = (feedLoop p (s.acc ++ chunk).length (s.acc ++ chunk) s).1 := rfl

/-- The remainder that FEED stores (R183). -/
theorem feedChunk_remainder : remainderShape (s.feedChunk p chunk).acc = true
    ∧ (s.feedChunk p chunk).acc.length ≤ s.acc.length + chunk.length := by
  rw [feedChunk_acc, ← List.length_append]
  exact feedLoop_remainder p _ _ s le_rfl

/-- Beside the events, FEED puts out its response. -/
theorem feedChunk_out : (s.feedChunk p chunk).out = { s.out with
    response := some (.ok (.bytes (s.feedChunk p chunk).acc)), events := (s.feedChunk p chunk).out.events } := by
  have loop := feedLoop_frame p _ (s.acc ++ chunk) s le_rfl
  rw [FramerFrame] at loop
  rw [State.feedChunk, loop]
  rfl

end

/-- Settles O32: it holds. The loop's frame and the remainder's shape. -/
theorem feedCompletes : Obligations.FeedCompletes := by
  intro chunk s
  by_cases cap : ExceedsCap s.acc chunk
  · exact ⟨_, exec_feed_of_exceeds cap, fun _ => rfl, fun fits => absurd cap fits⟩
  · obtain ⟨t, answer, frame⟩ := exec_framed s (.feed chunk)
    obtain rfl : t = s.start.feedChunk Config.params chunk :=
      Host.Outcome.next.inj (answer.symm.trans (exec_feed_of_fits cap))
    obtain ⟨shape, -⟩ := feedChunk_remainder Config.params s.start chunk
    refine ⟨_, answer, fun exceeded => absurd exceeded cap, fun _ => ⟨?_, ?_, (remainderShape_iff _).mp shape, frame⟩⟩
    · rw [feedChunk_out]
    · rw [feedChunk_out]
      rfl

/-- Settles O34: it holds. Fewer than 13 bytes have a remainder's shape. -/
theorem feedKeepsFewBytes : Obligations.FeedKeepsFewBytes := by
  intro chunk s few
  refine exec_feed_answers id fun _ => ?_
  rw [feedChunk_of_remainderShape Config.params (s := s.start) ((remainderShape_iff _).mpr (.inl few))]
  rfl

/-- Settles O38: it holds. What FEED left has a remainder's shape, and no capacity is exceeded by keeping it. -/
theorem feedOfNothingChangesNothing : Obligations.FeedOfNothingChangesNothing := by
  intro chunk s
  refine exec_feed_answers id fun fits => ?_
  obtain ⟨shape, length⟩ := feedChunk_remainder Config.params s.start chunk
  generalize s.start.feedChunk Config.params chunk = t at shape length
  rw [exec_feed_of_fits (not_exceedsCap_of_length_le fits (by simpa using length)),
    feedChunk_of_remainderShape Config.params (s := t.start) (by simpa using shape), start_acc, List.append_nil]
  rfl

/-! A spurious magic byte (R175) -/

/-- Delivering a candidate neither reads nor writes `ACC`. -/
theorem deliver_setAcc (p : Config.Params) (s : State) (v f : Bytes) :
    (s.setAcc v).deliver p f = (s.deliver p f).setAcc v := by
  have offered (t : State) (r : FrameRecord) : (t.setAcc v).offer p r = (t.offer p r).setAcc v := by
    simp only [State.offer, setAcc_pstate, State.statusRule, State.approvalRule]
    cases t.pstate <;> dsimp only <;> split_ifs <;> rfl
  simp only [State.deliver, setAcc_strict]
  split
  · exact offered (s.emit _) _
  · rfl
  · rfl

/-- The loop neither reads nor writes `ACC`. -/
theorem feedLoop_setAcc (p : Config.Params) (v : Bytes) (n : Nat) (r : Bytes) (s : State) :
    feedLoop p n r (s.setAcc v) = ((feedLoop p n r s).1, (feedLoop p n r s).2.setAcc v) := by
  induction n generalizing r s with
  | zero => rfl
  | succ n ih =>
    simp only [feedLoop, deliver_setAcc, ih]
    split_ifs <;> rfl

/-- A pass on a working string that starts with a spurious magic byte drops that byte. -/
theorem feedLoop_spurious (p : Config.Params) (n : Nat) {rest : Bytes} (s : State) (long : 13 ≤ (0x55 :: rest).length)
    (claim : headerLength (0x55 :: rest) < 13) : feedLoop p (n + 1) (0x55 :: rest) s = feedLoop p n rest s := by
  have atMagic : dropToMagic (0x55 :: rest) = 0x55 :: rest := dropToMagic_of_magic _ (List.cons_ne_nil _ _) rfl
  rw [feedLoop_succ, atMagic, if_neg long.not_gt, if_neg (List.cons_ne_nil _ _), if_neg (by omega),
    if_pos (.inl claim), List.drop_one, List.tail_cons]

/-- Settles O37: it holds. Both FEEDs run the loop on the rest, and end by writing `ACC`. -/
theorem feedDropsSpuriousMagic : Obligations.FeedDropsSpuriousMagic := by
  intro chunk rest s working long claim
  refine exec_feed_answers id fun fits => ?_
  rw [working] at long claim
  have shorter : rest.length ≤ s.acc.length + chunk.length := by
    rw [← List.length_append, working]
    exact Nat.le_succ _
  rw [exec_feed_of_fits (not_exceedsCap_of_length_le fits (by simpa using shorter))]
  congr 1
  calc (s.setAcc []).start.feedChunk Config.params rest
    _ = (((feedLoop Config.params rest.length rest s.start).2.setAcc []).setAcc _).respond (.bytes _) :=
      feedChunk_of_loop rfl le_rfl (feedLoop_setAcc Config.params [] rest.length rest s.start)
    _ = s.start.feedChunk Config.params chunk :=
      (feedChunk_of_loop (s := s.start) working le_rfl (feedLoop_spurious Config.params rest.length s.start long claim)).symm

/-! Candidates delivered one after the other (R179, R212, R213) -/

/-- The part of the state that delivering a candidate reads or writes, the output apart. -/
structure SameSession (s u : State) : Prop where
  strict : s.strict = u.strict
  pstate : s.pstate = u.pstate
  phase : s.phase = u.phase
  polls : s.polls = u.polls
  paired : s.paired = u.paired

theorem SameSession.refl (s : State) : SameSession s s := ⟨rfl, rfl, rfl, rfl, rfl⟩

/-- A command begins in the session it finds. -/
theorem sameSession_start (s : State) : SameSession s.start s := ⟨rfl, rfl, rfl, rfl, rfl⟩

/-- From `s` to `s'` and from `u` to `u'` the same outcomes are put out, and the sessions end alike. -/
def ReactAlike (s s' u u' : State) : Prop :=
  ∃ es, rawsOf es = [] ∧ s'.out.events = s.out.events ++ es ∧ u'.out.events = u.out.events ++ es ∧ SameSession s' u'

/-- `Offer` goes by the session only, and all it puts out are outcomes (R212). -/
theorem offer_reactAlike (p : Config.Params) (r : FrameRecord) {s u : State} (h : SameSession s u) :
    ReactAlike s (s.offer p r) u (u.offer p r) := by
  have ignored : ReactAlike s s u u := ⟨[], rfl, (List.append_nil _).symm, (List.append_nil _).symm, h⟩
  have paired : ReactAlike s s.enterPaired u u.enterPaired :=
    ⟨[.outcome .paired], rfl, rfl, rfl, h.strict, rfl, h.phase, h.polls, rfl⟩
  have awaiting : ReactAlike s s.enterAwaiting u u.enterAwaiting :=
    ⟨[.outcome .pairingRequired], rfl, rfl, rfl, h.strict, rfl, h.phase, h.polls, h.paired⟩
  rw [State.offer, State.offer, h.pstate]
  cases u.pstate with
  | credentialsSent => dsimp only [State.statusRule]; split_ifs <;> assumption
  | awaitingApproval => dsimp only [State.approvalRule]; split_ifs <;> assumption
  | idle | triggerSent | paired | timedOut | aborted => exact ignored

/-- A delivered candidate leaves as its own event, and then acts as its PAIR_RX in the same session (R179, R213). -/
theorem deliver_as_pairRx {f : Bytes} {s u : State} (hf : isCandidate f = true) (h : SameSession s u) :
    ∃ v, exec (.pairRx f) u = .next v ∧ SameSession (s.deliver Config.params f) v ∧ rawsOf v.out.events = []
      ∧ (s.deliver Config.params f).out.events = s.out.events ++ surfacedAs s.strict f :: v.out.events := by
  rw [surfacedAs_eq _ _ hf, State.deliver]
  by_cases wrong : s.strict = true ∧ checksumReport f ≠ 0
  · have mismatch : decodeCore f s.strict = .error (.decChecksum (checksumReport f)) := by
      rw [decodeCore_candidate f _ hf, if_pos wrong]
    refine ⟨_, exec_pairRx_of_error (h.strict ▸ mismatch), ?_⟩
    rw [mismatch]
    exact ⟨⟨h.strict, h.pstate, h.phase, h.polls, h.paired⟩, rfl, rfl⟩
  · have accepted : decodeCore f s.strict = .ok (fieldsOf f) := by
      rw [decodeCore_candidate f _ hf, if_neg wrong]
    have offered : SameSession (s.emit (.frameOut (fieldsOf f))) u.start :=
      ⟨h.strict, h.pstate, h.phase, h.polls, h.paired⟩
    obtain ⟨es, outcomes, delivered, received, session⟩ := offer_reactAlike Config.params (fieldsOf f) offered
    refine ⟨_, exec_pairRx_of_ok (h.strict ▸ accepted), ?_⟩
    rw [accepted]
    have events : ((u.start.offer Config.params (fieldsOf f)).respond .none).out.events = es := received
    refine ⟨⟨session.strict, session.pstate, session.phase, session.polls, session.paired⟩, ?_, ?_⟩
    · rw [events, outcomes]
    · rw [events, delivered]
      simp

/-- The state after the delivery of a list of frames, the first one first. -/
def State.deliverAll (p : Config.Params) (s : State) (fs : List Bytes) : State := fs.foldl (State.deliver p) s

@[simp] theorem deliverAll_nil (p : Config.Params) (s : State) : s.deliverAll p [] = s := rfl
@[simp] theorem deliverAll_cons (p : Config.Params) (s : State) (f : Bytes) (fs : List Bytes) :
    s.deliverAll p (f :: fs) = (s.deliver p f).deliverAll p fs := rfl

theorem deliver_strict (p : Config.Params) (s : State) (f : Bytes) : (s.deliver p f).strict = s.strict := by
  rw [deliver_frame p s f]

/-- Delivered candidates act, in order, as their PAIR_RX commands would (R62, R212, R213). -/
theorem deliverAll_as_pairRx {fs : List Bytes} {s u : State} (hfs : ∀ f ∈ fs, isCandidate f = true)
    (h : SameSession s u) :
    ∃ outs v, runCommands (fs.map .pairRx) u = some (outs, v) ∧ SameSession (s.deliverAll Config.params fs) v
      ∧ (s.deliverAll Config.params fs).out.events = s.out.events
        ++ ((fs.zip outs).map fun x => surfacedAs s.strict x.1 :: x.2.events).flatten := by
  induction fs generalizing s u with
  | nil => exact ⟨[], u, rfl, h, (List.append_nil _).symm⟩
  | cons f fs ih =>
    obtain ⟨hf, hfs⟩ := List.forall_mem_cons.mp hfs
    obtain ⟨v, received, session, -, events⟩ := deliver_as_pairRx hf h
    obtain ⟨outs, w, others, sessionEnd, eventsEnd⟩ := ih hfs session
    refine ⟨_, w, runCommands_cons received others, sessionEnd, ?_⟩
    rw [deliverAll_cons, eventsEnd, events, deliver_strict]
    simp

/-! The events of delivered candidates -/

@[simp] theorem rawsOf_append (es es' : List Event) : rawsOf (es ++ es') = rawsOf es ++ rawsOf es' :=
  List.filterMap_append

/-- Each candidate is surfaced as its own bytes (R179). -/
@[simp] theorem rawsOf_surfacedAs_cons (strict : Bool) (f : Bytes) (es : List Event) :
    rawsOf (surfacedAs strict f :: es) = f :: rawsOf es := by
  rw [surfacedAs]
  split_ifs <;> rfl

/-- Where no candidate is surfaced there are outcomes only. -/
theorem eq_outcome_of_rawsOf_nil {es : List Event} (h : rawsOf es = []) {e : Event} (he : e ∈ es) :
    ∃ o, e = .outcome o := by
  have none := List.filterMap_eq_nil_iff.mp h e he
  cases e with
  | outcome o => exact ⟨o, rfl⟩
  | frameOut r | checksumMismatch raw which => cases none

/-- Delivering candidates surfaces each one once, in order, and puts out nothing else but outcomes. -/
theorem deliverAll_events {fs : List Bytes} {s : State} (hfs : ∀ f ∈ fs, isCandidate f = true) :
    rawsOf (s.deliverAll Config.params fs).out.events = rawsOf s.out.events ++ fs
      ∧ ∀ e ∈ (s.deliverAll Config.params fs).out.events,
        e ∈ s.out.events ∨ (∃ f ∈ fs, e = surfacedAs s.strict f) ∨ ∃ o, e = .outcome o := by
  induction fs generalizing s with
  | nil => exact ⟨(List.append_nil _).symm, fun e he => .inl he⟩
  | cons f fs ih =>
    obtain ⟨hf, hfs⟩ := List.forall_mem_cons.mp hfs
    obtain ⟨v, -, -, outcomes, events⟩ := deliver_as_pairRx hf (.refl s)
    obtain ⟨raws, each⟩ := ih (s := s.deliver Config.params f) hfs
    rw [deliver_strict, events] at each
    constructor
    · simp [raws, events, outcomes]
    · intro e he
      rcases each e he with old | ⟨g, hg, rfl⟩ | outcome
      · rcases List.mem_append.mp old with older | new
        · exact .inl older
        · rcases List.mem_cons.mp new with rfl | after
          · exact .inr (.inl ⟨f, List.mem_cons_self, rfl⟩)
          · exact .inr (.inr (eq_outcome_of_rawsOf_nil outcomes after))
      · exact .inr (.inl ⟨g, List.mem_cons_of_mem f hg, rfl⟩)
      · exact .inr (.inr outcome)

/-- A surfaced record is the record of its raw bytes, which in strict mode have right checksums (R139, R179). -/
theorem recordOf_of_surfacedAs {strict : Bool} {f : Bytes} {r : FrameRecord} (h : .frameOut r = surfacedAs strict f) :
    RecordOf r r.raw ∧ (strict = false ∨ reportOf r.raw = 0) := by
  rw [surfacedAs] at h
  split_ifs at h with wrong
  obtain rfl : r = fieldsOf f := Event.frameOut.inj h
  refine ⟨fieldsOf_record f, ?_⟩
  rwa [not_and_or, Bool.not_eq_true, not_not, checksumReport_eq_zero_iff] at wrong

/-- A checksum mismatch is surfaced in strict mode, with the report of its bytes (R141, R179). -/
theorem report_of_surfacedAs {strict : Bool} {f raw : Bytes} {which : BitVec 2}
    (h : .checksumMismatch raw which = surfacedAs strict f) :
    strict = true ∧ which.toNat = reportOf raw ∧ reportOf raw ≠ 0 := by
  rw [surfacedAs] at h
  split_ifs at h with wrong
  obtain ⟨rfl, rfl⟩ := Event.checksumMismatch.inj h
  exact ⟨wrong.1, checksumReport_toNat raw, mt (checksumReport_eq_zero_iff raw).mpr wrong.2⟩

/-- Without a mismatch, the surfaced candidates are the surfaced frames. -/
theorem framesOf_map_raw {es : List Event} (h : ∀ raw which, .checksumMismatch raw which ∉ es) :
    (framesOf es).map FrameRecord.raw = rawsOf es := by
  rw [framesOf, rawsOf, List.map_filterMap]
  refine List.filterMap_congr fun e he => ?_
  cases e with
  | checksumMismatch raw which => exact absurd he (h raw which)
  | frameOut r | outcome o => rfl

/-- In permissive mode the candidates delivered after `start` are surfaced as frames, each one once and in order. -/
theorem framesOf_deliverAll {fs : List Bytes} {s : State} (hfs : ∀ f ∈ fs, isCandidate f = true)
    (permissive : s.strict = false) :
    (framesOf (s.start.deliverAll Config.params fs).out.events).map FrameRecord.raw = fs := by
  obtain ⟨raws, each⟩ := deliverAll_events (s := s.start) hfs
  rw [framesOf_map_raw, raws]
  · rfl
  · intro raw which mem
    rcases each _ mem with old | ⟨f, -, surfaced⟩ | ⟨o, outcome⟩
    · cases old
    · rw [start_strict, permissive] at surfaced
      exact nomatch (report_of_surfacedAs surfaced).1
    · cases outcome

/-! How the loop splits the working string (R172 to R177, R181, R182) -/

/-- The bytes `r` are accounted for by the candidates `fs` sliced from them, the remainder `acc`, and discarded bytes. -/
def AccountsFor (r : Bytes) (fs : List Bytes) (acc : Bytes) : Prop :=
  ∃ parts dropped, r = (parts.map fun x => x.1 ++ x.2).flatten ++ dropped ++ acc ∧ accounted parts dropped acc = true
    ∧ parts.map Prod.snd = fs

/-- Fewer than 13 bytes are kept as they are (R172). -/
theorem accountsFor_short {r : Bytes} (short : r.length < 13) : AccountsFor r [] r :=
  ⟨[], [], rfl, by simp [accounted, keeps, short], rfl⟩

/-- A pass that ends the loop discards bytes without a magic byte and keeps what `keeps` allows. -/
theorem accountsFor_exit {r g acc : Bytes} (long : 13 ≤ r.length) (split : r = g ++ acc) (garbage : (0x55 : Byte) ∉ g)
    (kept : keeps g acc = true) : AccountsFor r [] acc := by
  subst split
  exact ⟨[], g, rfl, by rw [accounted, discards_garbage g acc true garbage long, kept]; rfl, rfl⟩

/-- What was kept after `d` is kept after a spurious magic byte and `d`. -/
theorem keeps_append_magic (g d acc : Bytes) : keeps (g ++ 0x55 :: d) acc = keeps d acc := by
  simp only [keeps, passStarts_append_magic]

/-- A pass that drops a spurious magic byte adds to the discarded bytes in front of what comes next (R175). -/
theorem AccountsFor.spurious {r g rest acc : Bytes} {fs : List Bytes} (h : AccountsFor rest fs acc)
    (long : 13 ≤ r.length) (split : r = g ++ 0x55 :: rest) (garbage : (0x55 : Byte) ∉ g)
    (four : 4 ≤ (0x55 :: rest).length) (claim : headerLength (0x55 :: rest) < 13) : AccountsFor r fs acc := by
  obtain ⟨parts, dropped, restSplit, accounts, candidates⟩ := h
  subst split
  cases parts with
  | nil =>
    obtain rfl : rest = dropped ++ acc := restSplit
    simp only [accounted, Bool.and_eq_true] at accounts
    obtain ⟨discarded, kept⟩ := accounts
    refine ⟨[], g ++ 0x55 :: dropped, by simp, ?_, candidates⟩
    simp only [accounted, keeps_append_magic, kept, Bool.and_true]
    exact discards_spurious g dropped acc true garbage (by simpa using long) (by simpa using four) claim discarded
  | cons x xs =>
    simp only [accounted, Bool.and_eq_true] at accounts
    obtain ⟨⟨discarded, candidate⟩, others⟩ := accounts
    refine ⟨(g ++ 0x55 :: x.1, x.2) :: xs, dropped, by simp [restSplit], ?_, candidates⟩
    rw [restSplit] at long four claim
    simp only [accounted, candidate, others, Bool.and_true]
    exact discards_spurious g x.1 _ true garbage (by simpa using long) (by simpa using four) (by simpa using claim)
      discarded

theorem length_of_isCandidate {f : Bytes} (hf : isCandidate f = true) : 13 ≤ f.length := by
  simp only [isCandidate, Bool.and_eq_true, decide_eq_true_eq] at hf
  exact hf.1.2

/-- A pass that slices a candidate adds it with the bytes discarded in front of it (R177). -/
theorem AccountsFor.candidate {r g f rest acc : Bytes} {fs : List Bytes} (h : AccountsFor rest fs acc)
    (split : r = g ++ (f ++ rest)) (garbage : (0x55 : Byte) ∉ g) (hf : isCandidate f = true) :
    AccountsFor r (f :: fs) acc := by
  obtain ⟨parts, dropped, rfl, accounts, rfl⟩ := h
  subst split
  refine ⟨(g, f) :: parts, dropped, by simp, ?_, rfl⟩
  simp only [accounted, hf, accounts, Bool.and_true]
  refine discards_garbage g _ true garbage ?_
  have := length_of_isCandidate hf
  simp only [List.length_append]
  omega

/-- A string that starts with the magic byte, taken apart. -/
theorem eq_magic_cons {r : Bytes} (nonempty : r ≠ []) (magic : byteAt r 0 = 0x55) : r = 0x55 :: r.drop 1 := by
  cases r with
  | nil => exact absurd rfl nonempty
  | cons b r =>
    obtain rfl : b = 0x55 := magic
    rfl

/-- Where a pass found 13 bytes and fewer are left after steps a and b, these steps discarded some. -/
theorem passStarts_of_shortened {r g d : Bytes} (long : 13 ≤ r.length) (split : r = g ++ d)
    (garbage : (0x55 : Byte) ∉ g) (few : d.length < 4) : passStarts g = false := by
  refine passStarts_garbage g garbage ?_
  rintro rfl
  rw [split, List.nil_append] at long
  omega

/-- The loop accounts for every byte of its working string, and delivers the candidates it slices. -/
theorem feedLoop_accountsFor (p : Config.Params) {n : Nat} {r : Bytes} (s : State) (fuel : r.length ≤ n) :
    ∃ fs, AccountsFor r fs (feedLoop p n r s).1 ∧ (feedLoop p n r s).2 = s.deliverAll p fs := by
  refine feedLoop_induct p (M := fun r s a => ∃ fs, AccountsFor r fs a.1 ∧ a.2 = s.deliverAll p fs)
    ?short ?noMagic ?fewLeft ?spurious ?incomplete ?candidate n r s fuel
  all_goals intro r s
  all_goals obtain ⟨g, split, garbage⟩ := dropToMagic_split r
  case short => exact fun short => ⟨[], accountsFor_short short, rfl⟩
  case noMagic =>
    intro long none
    rw [none] at split
    have passed := passStarts_of_shortened long split garbage (by decide)
    exact ⟨[], accountsFor_exit long split garbage (by simp [keeps, passed]), rfl⟩
  case fewLeft =>
    intro long found few
    have passed := passStarts_of_shortened long split garbage few
    have magic := byteAt_dropToMagic r found
    exact ⟨[], accountsFor_exit long split garbage (by simp [keeps, passed, magic, few]), rfl⟩
  case spurious =>
    intro a long found four claim ih
    obtain ⟨fs, accounts, delivered⟩ := ih
    have magic := eq_magic_cons found (byteAt_dropToMagic r found)
    rw [magic] at split four claim
    exact ⟨fs, accounts.spurious long split garbage four claim, delivered⟩
  case incomplete =>
    intro long found four claim missing
    have magic := byteAt_dropToMagic r found
    exact ⟨[], accountsFor_exit long split garbage (by simp [keeps, magic, claim, missing]), rfl⟩
  case candidate =>
    intro a long found claim complete ih
    obtain ⟨fs, accounts, delivered⟩ := ih
    have sliced := isCandidate_take _ (byteAt_dropToMagic r found) claim complete
    rw [← List.take_append_drop (headerLength (dropToMagic r)) (dropToMagic r)] at split
    exact ⟨_ :: fs, accounts.candidate split garbage sliced, delivered⟩

theorem forall_isCandidate_of_accounted {parts : List (Bytes × Bytes)} {dropped acc : Bytes}
    (h : accounted parts dropped acc = true) : ∀ x ∈ parts, isCandidate x.2 = true := by
  induction parts with
  | nil => nofun
  | cons x xs ih =>
    simp only [accounted, Bool.and_eq_true] at h
    obtain ⟨⟨-, candidate⟩, others⟩ := h
    exact List.forall_mem_cons.mpr ⟨candidate, ih others⟩

/-- Settles O33: it holds. By induction on the loop's passes, FEED splits its working string and delivers the candidates in
order; and delivering candidates acts as their PAIR_RX commands do. -/
theorem feedAccountsForEveryByte : Obligations.FeedAccountsForEveryByte := by
  intro chunk s
  refine exec_feed_answers id fun _ => ?_
  obtain ⟨_, ⟨parts, dropped, split, accounts, rfl⟩, delivered⟩ :=
    feedLoop_accountsFor Config.params (r := s.acc ++ chunk) s.start le_rfl
  have candidates := forall_isCandidate_of_accounted accounts
  have frames : ∀ f ∈ parts.map Prod.snd, isCandidate f = true := List.forall_mem_map.mpr candidates
  obtain ⟨outs, u, run, session, events⟩ :=
    deliverAll_as_pairRx frames (sameSession_start s)
  obtain ⟨raws, each⟩ := deliverAll_events (s := s.start) frames
  rw [List.map_map] at run
  rw [List.zip_map_left, List.map_map] at events
  rw [← delivered] at session events raws each
  refine ⟨parts, dropped, outs, u, split, accounts, raws, candidates, run, session.pstate, session.phase, session.polls,
    session.paired, events, fun r mem => ?_, fun raw which mem => ?_⟩
  · rcases each _ mem with old | ⟨f, -, surfaced⟩ | ⟨o, outcome⟩
    · cases old
    · exact recordOf_of_surfacedAs surfaced
    · cases outcome
  · rcases each _ mem with old | ⟨f, -, surfaced⟩ | ⟨o, outcome⟩
    · cases old
    · exact report_of_surfacedAs surfaced
    · cases outcome

/-! FEED of given frames -/

/-- With an empty remainder the working string is the chunk (R172). -/
theorem start_acc_append_of_empty {s : State} (empty : s.acc = []) (chunk : Bytes) : s.start.acc ++ chunk = chunk := by
  rw [start_acc, empty, List.nil_append]

/-- The loop drops what stands between frames and delivers the frames (R173, R177, R181). -/
theorem feedLoop_interleaved (p : Config.Params) {n : Nat} {parts : List (Bytes × Bytes)} (s : State)
    (hparts : ∀ x ∈ parts, (0x55 : Byte) ∉ x.1 ∧ isCandidate x.2 = true)
    (fuel : (parts.map fun x => x.1 ++ x.2).flatten.length ≤ n) :
    feedLoop p n (parts.map fun x => x.1 ++ x.2).flatten s = ([], s.deliverAll p (parts.map Prod.snd)) := by
  induction parts generalizing s with
  | nil => cases n <;> rfl
  | cons x xs ih =>
    obtain ⟨⟨garbage, candidate⟩, hxs⟩ := List.forall_mem_cons.mp hparts
    have long := length_of_isCandidate candidate
    rw [List.map_cons, List.flatten_cons, List.append_assoc] at fuel ⊢
    generalize (xs.map fun x => x.1 ++ x.2).flatten = rest at fuel ih ⊢
    have fuel' : x.1.length + (x.2 ++ rest).length ≤ n := by rwa [← List.length_append]
    have length : (x.2 ++ rest).length = x.2.length + rest.length := List.length_append
    rw [feedLoop_garbage p n n x.1 _ s garbage (by omega) fuel (by omega),
      feedLoop_candidate p n n x.2 rest s candidate (by omega) (by omega), ih _ hxs (by omega)]
    rfl

/-- Settles O35: it holds. The loop delivers exactly the frames. -/
theorem feedResynchronises : Obligations.FeedResynchronises := by
  intro parts s empty permissive hparts
  refine exec_feed_answers (fun fits => empty ▸ fits) fun _ => ?_
  have frames : ∀ f ∈ parts.map Prod.snd, isCandidate f = true := List.forall_mem_map.mpr fun x hx => (hparts x hx).2
  rw [feedChunk_of_loop (start_acc_append_of_empty empty _) le_rfl
    (feedLoop_interleaved Config.params s.start hparts le_rfl)]
  exact ⟨rfl, rfl, framesOf_deliverAll frames permissive⟩

/-- A frame cut short has a remainder's shape (R176). -/
theorem remainderShape_take {f : Bytes} {k : Nat} (hf : isCandidate f = true) (cut : k < f.length) :
    remainderShape (f.take k) = true := by
  simp only [isCandidate, Bool.and_eq_true, beq_iff_eq, decide_eq_true_eq] at hf
  obtain ⟨⟨magic, long⟩, claim⟩ := hf
  have length : (f.take k).length = k := List.length_take_of_le cut.le
  rw [remainderShape_iff, length]
  by_cases short : k < 13
  · exact .inl short
  · have := headerLength_le f
    rw [byteAt_take f k 0 (by omega), headerLength_take f k (by omega)]
    exact .inr ⟨magic, by omega, by omega, by omega⟩

/-- Whatever part of a candidate `ACC` holds, FEED of the other part delivers it (R176, R177). -/
theorem feedChunk_candidate (p : Config.Params) {s : State} {chunk f : Bytes} (hf : isCandidate f = true)
    (working : s.acc ++ chunk = f) : s.feedChunk p chunk = ((s.deliverAll p [f]).setAcc []).respond (.bytes []) :=
  feedChunk_of_loop (working.trans (by simp)) le_rfl
    (feedLoop_interleaved p (parts := [([], f)]) s (by simpa using hf) le_rfl)

/-- Settles O36: it holds. The first part has a remainder's shape, and with the second part it is the frame again. -/
theorem feedReassemblesSplitFrame : Obligations.FeedReassemblesSplitFrame := by
  intro f k s empty permissive candidate cut
  have working : s.start.acc ++ f.take k = f.take k := start_acc_append_of_empty empty _
  have kept : s.start.feedChunk Config.params (f.take k)
      = { s with acc := f.take k }.outputs (.ok (.bytes (f.take k))) [] [] := by
    rw [feedChunk_of_remainderShape Config.params (working.symm ▸ remainderShape_take candidate cut), working]
    rfl
  refine exec_feed_answers (C := ¬ ExceedsCap [] f)
    (fun fits => not_exceedsCap_of_length_le fits (by simp [empty])) fun fits => ⟨kept, ?_⟩
  rw [kept]
  refine ⟨_, exec_feed_of_fits (not_exceedsCap_of_length_le (acc' := f.take k) fits (by simp; omega)), ?_⟩
  rw [feedChunk_candidate Config.params candidate (List.take_append_drop k f)]
  exact ⟨rfl, framesOf_deliverAll (by simpa using candidate) permissive⟩

/-- Settles O39: it holds. The loop delivers the candidate, which then leaves as `DecodeCore` says. -/
theorem feedDeliversCandidate : Obligations.FeedDeliversCandidate := by
  intro f s empty candidate
  refine exec_feed_answers (fun fits => empty ▸ fits) fun _ => ?_
  rw [feedChunk_candidate Config.params candidate (start_acc_append_of_empty empty f)]
  refine ⟨rfl, fun accepted => ?_, fun strict wrong => ⟨checksumReport f, checksumReport_toNat f, ?_⟩⟩
  · obtain ⟨v, -, -, outcomes, events⟩ :=
      deliver_as_pairRx candidate (.refl s.start)
    rw [surfacedAs_eq _ _ candidate, start_strict, decodeCore_candidate_ok candidate accepted] at events
    exact ⟨fieldsOf f, _, fieldsOf_record f, events, outcomes⟩
  · rw [deliverAll_cons, deliverAll_nil, State.deliver, start_strict, strict,
      decodeCore_candidate_mismatch candidate wrong, ← empty]
    rfl

end Sys2Proof.Machine

/-! PROOFS. The pairing family (43_pairing.md): what each of its commands answers (O41 to O50), FEED of several frames and
the PAIR_RX of each (O40), and what a run of commands does to a session: the states that only CONN_RESET leaves (O51),
outcomes at most once (O53) and the end of the bounded wait (O52). -/

namespace Sys2Proof.Machine

/-! What the commands answer (R205 to R209, R225 to R230) -/

section
variable {s : State}

theorem exec_pairStart_of_not_idle {ident pin : Bytes} (h : s.pstate ≠ .idle) :
    exec (.pairStart ident pin) s = .next (s.outputs (.errState s.pstate s.phase) [] []) := by
  rw [exec, execPairStart, if_pos h]
  rfl

theorem exec_pairStart_of_badString {ident pin : Bytes} {field : LengthField} {n : Nat} (idle : s.pstate = .idle)
    (bad : badString ident pin = some (field, n)) :
    exec (.pairStart ident pin) s = .next (s.outputs (.errLength field n) [] []) := by
  rw [exec, execPairStart, if_neg (not_not.mpr idle), bad]
  rfl

theorem exec_pairStart_of_fits {ident pin : Bytes} (idle : s.pstate = .idle) (good : badString ident pin = none) :
    exec (.pairStart ident pin) s
      = .next ({ s with ident := ident, pin := pin, pstate := .triggerSent, phase := .trigWrite }.outputs (.ok .none) []
          [{ channel := .trig, data := [Config.params.trigger.1, Config.params.trigger.2] }]) := by
  rw [exec, execPairStart, if_neg (not_not.mpr idle), good]
  rfl

/-- A completion that no write waits for is refused (R207, R229). -/
theorem exec_pairWriteDone_refused (h : s.phase = .none ∨ s.phase = .settle) (ok : Bool) :
    exec (.pairWriteDone ok) s = .next (s.outputs (.errState s.pstate s.phase) [] []) := by
  rcases h with h | h <;> simp only [exec, execPairWriteDone, h] <;> rfl

theorem exec_pairWriteDone_failed (h : s.phase = .trigWrite ∨ s.phase = .credWrite) :
    exec (.pairWriteDone false) s
      = .next ({ s with pstate := .aborted, phase := .none }.outputs (.errTransport s.phase)
          [.outcome (.pairingAborted .transport)] []) := by
  rcases h with h | h <;> simp only [exec, execPairWriteDone, h] <;> rfl

theorem exec_pairWriteDone_trigger (h : s.phase = .trigWrite) :
    exec (.pairWriteDone true) s = .next ({ s with phase := .settle }.outputs (.ok .none) [] []) := by
  simp only [exec, execPairWriteDone, h]
  rfl

theorem exec_pairWriteDone_credentials (h : s.phase = .credWrite) :
    exec (.pairWriteDone true) s
      = .next ({ s with pstate := .credentialsSent, phase := .none, polls := 0 }.outputs (.ok .none) [] []) := by
  simp only [exec, execPairWriteDone, h]
  rfl

theorem exec_pairSettleDone_refused (h : s.phase ≠ .settle) :
    exec .pairSettleDone s = .next (s.outputs (.errState s.pstate s.phase) [] []) := by
  rw [exec, execPairSettleDone, if_pos h]
  rfl

theorem exec_pairSettleDone_of_settle (h : s.phase = .settle) :
    exec .pairSettleDone s
      = .next ({ s with seq := s.seq + 1, phase := .credWrite }.outputs (.ok .none) []
          [{ channel := .cmd, data := buildFrame Config.params.pairTarget s.seq Config.pairFlags Config.params.wifiCmdSet
              Config.params.pinSetCmdId (credentialPayload s.ident s.pin) }]) := by
  rw [exec, execPairSettleDone, if_neg (not_not.mpr h)]
  rfl

theorem exec_pairPollTick_of_waiting (h : isWaiting s.pstate = true) :
    exec .pairPollTick s = .next (s.start.pollOnce.respond .none) := by
  rw [exec, execPairPollTick, if_pos h]

theorem exec_pairPollTick_of_not_waiting (h : isWaiting s.pstate = false) :
    exec .pairPollTick s = .next (s.outputs (.ok .none) [] []) := by
  rw [exec, execPairPollTick, h]
  rfl

/-- Outside the bounded wait a frame that decodes changes nothing (R223). -/
theorem exec_pairRx_of_not_waiting {d : Bytes} {r : FrameRecord} (decoded : decodeCore d s.strict = .ok r)
    (h : isWaiting s.pstate = false) : exec (.pairRx d) s = .next (s.outputs (.ok .none) [] []) := by
  rw [exec_pairRx_of_ok decoded, offer_not_waiting _ s.start _ h]
  rfl

theorem exec_pairCancel_of_handshake (h : s.pstate = .triggerSent ∨ isWaiting s.pstate = true) :
    exec .pairCancel s
      = .next ({ s with pstate := .aborted, phase := .none }.outputs (.ok .none) [.outcome (.pairingAborted .cancel)] []) := by
  rw [exec, execPairCancel, if_pos h]
  rfl

theorem exec_pairCancel_refused (h : ¬ (s.pstate = .triggerSent ∨ isWaiting s.pstate = true)) :
    exec .pairCancel s = .next (s.outputs (.errState s.pstate s.phase) [] []) := by
  rw [exec, execPairCancel, if_neg h]
  rfl

end

/-- The states of the bounded wait (R225). -/
theorem isWaiting_iff (p : PState) : isWaiting p = true ↔ p = .credentialsSent ∨ p = .awaitingApproval := by
  cases p <;> decide

theorem isWaiting_eq_false {p : PState} (credentials : p ≠ .credentialsSent) (approval : p ≠ .awaitingApproval) :
    isWaiting p = false :=
  Bool.eq_false_iff.mpr fun w => ((isWaiting_iff p).mp w).elim credentials approval

/-- Settles O41: it holds. -/
theorem pairStartSendsTrigger : Obligations.PairStartSendsTrigger := by
  intro ident pin s
  refine ⟨fun idle hident hpin => exec_pairStart_of_fits idle ?_, exec_pairStart_of_not_idle,
    fun idle hident => exec_pairStart_of_badString idle ?_, fun idle hident hpin => exec_pairStart_of_badString idle ?_⟩
    <;> rw [badString_eq]
  · rw [if_neg hident.not_gt, if_neg hpin.not_gt]
  · rw [if_pos hident]
  · rw [if_neg hident.not_gt, if_pos hpin]

/-- Settles O42: it holds. -/
theorem writeDoneMovesOn : Obligations.WriteDoneMovesOn := fun _ =>
  ⟨exec_pairWriteDone_trigger, exec_pairWriteDone_credentials, exec_pairWriteDone_failed, exec_pairWriteDone_refused⟩

/-- Settles O43: it holds. Two strings of at most 255 bytes and their length bytes fit a payload. -/
theorem settleDoneSendsCredentials : Obligations.SettleDoneSendsCredentials := by
  intro s
  refine ⟨fun settle hident hpin => ⟨_, ?_, exec_pairSettleDone_of_settle settle⟩, exec_pairSettleDone_refused⟩
  have payload : credentialPayload s.ident s.pin
      = BitVec.ofNat 8 s.ident.length :: s.ident ++ BitVec.ofNat 8 s.pin.length :: s.pin := by
    simp [credentialPayload]
  rw [payload]
  refine frameLayout_buildFrame (h := ?_) ..
  simp only [List.length_append, List.length_cons]
  omega

/-- Settles O44: it holds. -/
theorem pollTickCounts : Obligations.PollTickCounts := by
  intro s
  refine ⟨fun waiting below => ?_, fun waiting last => ?_, fun credentials approval =>
    exec_pairPollTick_of_not_waiting (isWaiting_eq_false credentials approval)⟩
    <;> rw [exec_pairPollTick_of_waiting ((isWaiting_iff _).mpr waiting)]
    <;> rcases pollOnce_cases s.start with ⟨reached, e⟩ | ⟨reached, e⟩ <;> rw [start_polls] at reached
  · bv_omega
  · rw [e]; rfl
  · rw [e]; rfl
  · exact absurd (by rw [last]; rfl) reached

/-! What a frame does to the session (R214 to R223) -/

/-- A PIN-set status response, by its fields (R97). -/
theorem isPinSetResponse_iff (p : Config.Params) (r : FrameRecord) : isPinSetResponse p r = true
    ↔ r.commandSet = p.wifiCmdSet ∧ r.commandId = p.pinSetCmdId ∧ r.flags.getLsbD 7 = true := by
  simp only [isPinSetResponse, Bool.and_eq_true, beq_iff_eq, responseFlag_eq, and_assoc]

/-- An approval notice, by its fields (R98). -/
theorem isApprovalNotice_iff (p : Config.Params) (r : FrameRecord) :
    isApprovalNotice p r = true ↔ r.commandSet = p.wifiCmdSet ∧ r.commandId = p.approvedCmdId := by
  simp only [isApprovalNotice, Bool.and_eq_true, beq_iff_eq]

section
variable {d : Bytes} {s : State} {r : FrameRecord}

theorem exec_pairRx_of_credentialsSent (decoded : decodeCore d s.strict = .ok r) (h : s.pstate = .credentialsSent) :
    exec (.pairRx d) s = .next ((s.start.statusRule Config.params r).respond .none) := by
  rw [exec_pairRx_of_ok decoded, State.offer, start_pstate, h]

theorem exec_pairRx_of_awaitingApproval (decoded : decodeCore d s.strict = .ok r) (h : s.pstate = .awaitingApproval) :
    exec (.pairRx d) s = .next ((s.start.approvalRule Config.params r).respond .none) := by
  rw [exec_pairRx_of_ok decoded, State.offer, start_pstate, h]

end

/-- Settles O45: it holds. In each clause the frame's class and status byte leave one case of `StatusRule`. -/
theorem statusResponseMovesFsm : Obligations.StatusResponseMovesFsm := by
  intro d s r decoded credentials
  rw [exec_pairRx_of_credentialsSent decoded credentials, State.statusRule, statusByte_eq, ← isPinSetResponse_iff]
  refine ⟨fun response => ⟨fun one => ?_, fun two => ?_, fun notOne notTwo => ?_⟩, fun other => ?_⟩
  · rw [if_pos response, if_pos one]
    rfl
  · rw [if_pos response, two, if_neg (by decide), if_pos rfl]
    rfl
  · rw [if_pos response, if_neg notOne, if_neg notTwo]
    rfl
  · rw [if_neg other]
    rfl

/-- Settles O46: it holds. -/
theorem approvalNoticeMovesFsm : Obligations.ApprovalNoticeMovesFsm := by
  intro d s r decoded
  refine ⟨fun approval => ?_, fun credentials approval =>
    exec_pairRx_of_not_waiting decoded (isWaiting_eq_false credentials approval)⟩
  rw [exec_pairRx_of_awaitingApproval decoded approval, State.approvalRule, List.head?_eq_getElem?, ← and_assoc,
    ← isApprovalNotice_iff]
  refine ⟨fun approved => ?_, fun other => ?_⟩
  · rw [if_pos approved]
    rfl
  · rw [if_neg other]
    rfl

/-- Settles O47: it holds. DECODE ends with an error only where `DecodeCore` answers it, and there PAIR_RX raises it. -/
theorem pairRxRaisesDecodeErrors : Obligations.PairRxRaisesDecodeErrors := by
  intro d s e decode notOk
  have sameResponse {e' : Response} (h : exec (.decode d) s = .next (s.outputs e' [] [])) : e' = e :=
    Option.some.inj (congrArg (fun t => t.out.response) (Host.Outcome.next.inj (h.symm.trans decode)))
  cases h : decodeCore d s.strict with
  | ok r => exact absurd (sameResponse (exec_decode_of_ok h)).symm (notOk _)
  | error e' => exact sameResponse (exec_decode_of_error h) ▸ exec_pairRx_of_error h

/-! PAIR_CANCEL and PAIR_STATUS (R228 to R230) -/

/-- Settles O48: it holds. -/
theorem pairCancelAborts : Obligations.PairCancelAborts := by
  intro s
  refine ⟨fun handshake => exec_pairCancel_of_handshake ?_, fun other => exec_pairCancel_refused ?_⟩
  · rwa [isWaiting_iff]
  · rcases other with h | h | h | h <;> rw [h] <;> decide

/-- R27's list in the order of the codes. -/
theorem getElem?_pstateCode (p : PState) :
    [PState.idle, .triggerSent, .credentialsSent, .awaitingApproval, .paired, .timedOut, .aborted][(pstateCode p).toNat]?
      = some p := by
  cases p <;> rfl

/-- R28's list in the order of the codes. -/
theorem getElem?_phaseCode (p : Phase) :
    [Phase.none, .trigWrite, .settle, .credWrite][(phaseCode p).toNat]? = some p := by
  cases p <;> rfl

/-- Settles O49: it holds. -/
theorem pairStatusReportsSession : Obligations.PairStatusReportsSession := fun s =>
  ⟨_, _, _, rfl, getElem?_pstateCode s.pstate, getElem?_phaseCode s.phase, by cases s.paired <;> decide⟩

/-- Settles O50: it holds. After the abort no write is in flight, and the state is not waiting. -/
theorem completionAfterCancelIsRefused : Obligations.CompletionAfterCancelIsRefused := fun _ triggerSent _ =>
  ⟨_, exec_pairCancel_of_handshake (.inl triggerSent), exec_pairWriteDone_refused (.inl rfl),
    fun _ _ decoded => exec_pairRx_of_not_waiting decoded rfl⟩

/-! FEED of several frames (R62, R212, R213) -/

@[simp] theorem outcomesOf_append (es es' : List Event) : outcomesOf (es ++ es') = outcomesOf es ++ outcomesOf es' :=
  List.filterMap_append

/-- A candidate's own event is no outcome (R95). -/
@[simp] theorem outcomesOf_surfacedAs_cons (strict : Bool) (f : Bytes) (es : List Event) :
    outcomesOf (surfacedAs strict f :: es) = outcomesOf es := by
  rw [surfacedAs]
  split_ifs <;> rfl

@[simp] theorem eventsOf_cons (o : Output) (outs : List Output) : eventsOf (o :: outs) = o.events ++ eventsOf outs := rfl

/-- A run puts out one output per command (R86). -/
theorem length_of_runCommands {cmds : List Instr} {s u : State} {outs : List Output}
    (run : runCommands cmds s = some (outs, u)) : outs.length = cmds.length := by
  induction cmds generalizing s outs with
  | nil => cases run; rfl
  | cons i is ih =>
    obtain ⟨t, answer, -⟩ := exec_framed s i
    cases others : runCommands is t with
    | none => simp only [runCommands, answer, others, reduceCtorEq] at run
    | some x =>
      simp only [runCommands, answer, others, Option.some.injEq, Prod.mk.injEq] at run
      obtain ⟨rfl, rfl⟩ := run
      exact congrArg (· + 1) (ih others)

/-- The outcomes among the events of delivered candidates are the outcomes of their PAIR_RX commands. -/
theorem outcomesOf_surfaced_zip (strict : Bool) {fs : List Bytes} {outs : List Output} (h : outs.length = fs.length) :
    outcomesOf ((fs.zip outs).map fun x => surfacedAs strict x.1 :: x.2.events).flatten = outcomesOf (eventsOf outs) := by
  induction fs generalizing outs with
  | nil =>
    obtain rfl := List.length_eq_zero_iff.mp h
    rfl
  | cons f fs ih =>
    obtain ⟨o, outs, rfl⟩ := List.exists_cons_of_length_eq_add_one h
    simp [ih (Nat.succ.inj h)]

/-- FEED of candidates alone delivers them one after the other (R177). -/
theorem feedChunk_candidates (p : Config.Params) {s : State} {fs : List Bytes} (empty : s.acc = [])
    (hfs : ∀ f ∈ fs, isCandidate f = true) :
    s.feedChunk p fs.flatten = ((s.deliverAll p fs).setAcc []).respond (.bytes []) := by
  have loop := feedLoop_interleaved p (parts := fs.map fun f => ([], f)) s (by simpa using hfs) le_rfl
  simp only [List.map_map, Function.comp_def, List.nil_append, List.map_id_fun', id_eq] at loop
  exact feedChunk_of_loop (by rw [empty, List.nil_append]) le_rfl loop

/-- Settles O40: it holds. FEED delivers the frames one after the other, and delivering acts as their PAIR_RX commands do. -/
theorem feedAndPairRxAgree : Obligations.FeedAndPairRxAgree := by
  intro fs s empty hfs
  obtain ⟨outs, u, run, session, events⟩ := deliverAll_as_pairRx hfs (sameSession_start s)
  have answers : ∃ t, exec (.feed fs.flatten) s = .next t ∧ (¬ ExceedsCap [] fs.flatten →
      t = ((s.start.deliverAll Config.params fs).setAcc []).respond (.bytes [])) :=
    exec_feed_answers (fun fits => empty ▸ fits) fun _ => feedChunk_candidates Config.params empty hfs
  obtain ⟨t, answer, fed⟩ := answers
  refine ⟨t, outs, u, answer, run, fun fits => ?_⟩
  have length : outs.length = fs.length := (length_of_runCommands run).trans (List.length_map _)
  have eventsFed : t.out.events = ((fs.zip outs).map fun x => surfacedAs s.strict x.1 :: x.2.events).flatten := by
    rw [fed fits]
    exact events
  refine ⟨?_, ?_, ?_, ?_, ?_, eventsFed, eventsFed ▸ outcomesOf_surfaced_zip s.strict length⟩ <;> rw [fed fits]
  · rfl
  · exact session.pstate
  · exact session.phase
  · exact session.polls
  · exact session.paired

/-! The terminal states (R232) -/

theorem isWaiting_of_isTerminal {p : PState} (h : isTerminal p = true) : isWaiting p = false := by
  revert h
  cases p <;> decide

theorem ne_triggerSent_of_isTerminal {p : PState} (h : isTerminal p = true) : p ≠ .triggerSent := by
  rintro rfl
  cases h

theorem ne_idle_of_isTerminal {p : PState} (h : isTerminal p = true) : p ≠ .idle := by
  rintro rfl
  cases h

/-- What FEED does to the session it does by delivering candidates (R177 to R179). -/
theorem feedChunk_delivers (p : Config.Params) (s : State) (chunk : Bytes) :
    ∃ fs acc, s.feedChunk p chunk = ((s.deliverAll p fs).setAcc acc).respond (.bytes acc) := by
  obtain ⟨fs, -, delivered⟩ := feedLoop_accountsFor p (r := s.acc ++ chunk) s le_rfl
  exact ⟨fs, _, by rw [State.feedChunk, delivered]⟩

/-- Frames delivered outside the bounded wait do not reach the session (R223). -/
theorem deliverAll_of_not_waiting (p : Config.Params) (fs : List Bytes) {s : State} (h : isWaiting s.pstate = false) :
    SameSession (s.deliverAll p fs) s := by
  induction fs generalizing s with
  | nil => exact .refl s
  | cons f fs ih =>
    have one : SameSession (s.deliver p f) s := by
      rcases deliver_cases p s f with ⟨r, -, e⟩ | ⟨w, -, e⟩ | ⟨-, e⟩ <;> rw [e]
      · rw [offer_not_waiting p (s.emit _) r h]
        exact ⟨rfl, rfl, rfl, rfl, rfl⟩
      · exact ⟨rfl, rfl, rfl, rfl, rfl⟩
      · exact .refl s
    have others := ih (s := s.deliver p f) (one.pstate ▸ h)
    exact ⟨others.strict.trans one.strict, others.pstate.trans one.pstate, others.phase.trans one.phase,
      others.polls.trans one.polls, others.paired.trans one.paired⟩

theorem sameSession_outputs (s : State) (r : Response) (es : List Event) (qs : List TxReq) :
    SameSession (s.outputs r es qs) s := ⟨rfl, rfl, rfl, rfl, rfl⟩

/-- The command answers a state with the session it found. -/
def KeepsSession (s : State) (a : Answer) : Prop := ∃ t, a = .next t ∧ SameSession t s

theorem keepsSession_of_outputs {s : State} {a : Answer} {r : Response} {es : List Event} {qs : List TxReq}
    (h : a = .next (s.outputs r es qs)) : KeepsSession s a := ⟨_, h, sameSession_outputs s r es qs⟩

section
variable {s : State}

theorem exec_pairRx_keepsSession (d : Bytes) (h : isWaiting s.pstate = false) :
    KeepsSession s (exec (.pairRx d) s) := by
  cases decoded : decodeCore d s.strict with
  | ok r => exact keepsSession_of_outputs (exec_pairRx_of_not_waiting decoded h)
  | error e => exact keepsSession_of_outputs (exec_pairRx_of_error decoded)

theorem exec_feed_keepsSession (chunk : Bytes) (h : isWaiting s.pstate = false) :
    KeepsSession s (exec (.feed chunk) s) := by
  by_cases cap : ExceedsCap s.acc chunk
  · exact keepsSession_of_outputs (exec_feed_of_exceeds cap)
  · obtain ⟨fs, acc, fed⟩ := feedChunk_delivers Config.params s.start chunk
    obtain ⟨strict, pstate, phase, polls, paired⟩ := deliverAll_of_not_waiting Config.params fs (s := s.start) h
    exact ⟨_, exec_feed_of_fits cap, fed ▸ ⟨strict, pstate, phase, polls, paired⟩⟩

/-- The commands that write the session keep a terminal one, CONN_RESET apart. -/
theorem exec_keepsSession_of_isTerminal {i : Instr} (writes : writesSession i.opcode = true) (noReset : i ≠ .connReset)
    (terminal : isTerminal s.pstate = true) (phase : s.phase = .none) : KeepsSession s (exec i s) := by
  have notWaiting := isWaiting_of_isTerminal terminal
  have notTrigger := ne_triggerSent_of_isTerminal terminal
  cases i with
  | pairStart ident pin =>
    exact keepsSession_of_outputs (exec_pairStart_of_not_idle (ne_idle_of_isTerminal terminal))
  | pairWriteDone ok => exact keepsSession_of_outputs (exec_pairWriteDone_refused (.inl phase) ok)
  | pairSettleDone => exact keepsSession_of_outputs (exec_pairSettleDone_refused (by simp [phase]))
  | pairPollTick => exact keepsSession_of_outputs (exec_pairPollTick_of_not_waiting notWaiting)
  | pairRx d => exact exec_pairRx_keepsSession d notWaiting
  | pairCancel => exact keepsSession_of_outputs (exec_pairCancel_refused (by simp [notTrigger, notWaiting]))
  | feed chunk => exact exec_feed_keepsSession chunk notWaiting
  | connReset => exact absurd rfl noReset
  | _ => cases writes

end

/-- The writers of `POLLS` and of `PAIRED` write the session (10_state.md section 1). -/
theorem not_mem_of_not_writesSession {op : Opcode} (h : writesSession op = false) :
    op ∉ [.pairWriteDone, .pairPollTick, .connReset] ∧ op ∉ [.pairRx, .feed, .connReset] := by
  revert h
  cases op <;> decide

/-- Settles O51: it holds. The commands that do not write the session keep it in every state, the others in a terminal
one. -/
theorem terminalStatesAreLeftOnlyByReset : Obligations.TerminalStatesAreLeftOnlyByReset := by
  intro i s t terminal phase answer noReset
  cases writes : writesSession i.opcode with
  | true =>
    obtain ⟨u, answer', session⟩ := exec_keepsSession_of_isTerminal writes noReset terminal phase
    obtain rfl : t = u := Host.Outcome.next.inj (answer.symm.trans answer')
    exact ⟨session.pstate, session.phase, session.polls, session.paired⟩
  | false =>
    obtain ⟨-, -, -, -, keepsPState, keepsPhase, keepsPolls, keepsPaired, -⟩ := onlyListedCommandsWrite i s t answer
    obtain ⟨notPolls, notPaired⟩ := not_mem_of_not_writesSession writes
    exact ⟨keepsPState writes, keepsPhase (.inl writes), keepsPolls notPolls, keepsPaired notPaired⟩

/-! What a session goes through (R201, R202): every entry to a state raises the code of `PSTATE` -/

/-- The code of R27 as a number. -/
def PState.code (p : PState) : Nat := (pstateCode p).toNat

/-- A session goes from one `PSTATE` to another, emitting the outcomes of the states it enters: each entry, with or without
an outcome, raises the code of R27. -/
inductive Advances : PState → List PairOutcome → PState → Prop where
  | stay (p : PState) : Advances p [] p
  /-- An entry that no outcome reports: `TriggerSent` and `CredentialsSent`. -/
  | silent {p q r : PState} {os : List PairOutcome} (raised : p.code < q.code) (rest : Advances q os r) :
    Advances p os r
  | report {p r : PState} {o : PairOutcome} {os : List PairOutcome} (raised : p.code < (enteredState o).code)
    (rest : Advances (enteredState o) os r) : Advances p (o :: os) r

theorem Advances.trans {p q r : PState} {os os' : List PairOutcome} (h : Advances p os q) (k : Advances q os' r) :
    Advances p (os ++ os') r := by
  induction h with
  | stay => exact k
  | silent raised _ ih => exact .silent raised (ih k)
  | report raised _ ih => exact .report raised (ih k)

/-- One entry without an outcome. -/
theorem advances_silent {p q : PState} (raised : p.code < q.code) : Advances p [] q :=
  .silent raised (.stay q)

/-- One entry with its outcome. -/
theorem advances_report {p : PState} (o : PairOutcome) (raised : p.code < (enteredState o).code) :
    Advances p [o] (enteredState o) := .report raised (.stay _)

theorem Advances.code_le {p q : PState} {os : List PairOutcome} (h : Advances p os q) : p.code ≤ q.code := by
  induction h with
  | stay => exact le_rfl
  | silent raised _ ih => exact raised.le.trans ih
  | report raised _ ih => exact raised.le.trans ih

/-- Every reported entry is to a higher code than the session's first state. -/
theorem Advances.code_lt_entered {p q : PState} {os : List PairOutcome} (h : Advances p os q) :
    ∀ e ∈ os.map enteredState, p.code < e.code := by
  induction h with
  | stay => nofun
  | silent raised _ ih => exact fun e he => raised.trans (ih e he)
  | report raised _ ih => exact List.forall_mem_cons.mpr ⟨raised, fun e he => raised.trans (ih e he)⟩

/-- No state is entered twice. -/
theorem Advances.nodup {p q : PState} {os : List PairOutcome} (h : Advances p os q) : (os.map enteredState).Nodup := by
  induction h with
  | stay => exact List.nodup_nil
  | silent _ _ ih => exact ih
  | report _ rest ih => exact List.nodup_cons.mpr ⟨fun again => lt_irrefl _ (rest.code_lt_entered _ again), ih⟩

/-- The waiting states have lower codes than the terminal ones. -/
theorem code_lt_of_isWaiting {p q : PState} (h : isWaiting p = true) (hq : isTerminal q = true) : p.code < q.code := by
  revert h hq
  cases p <;> cases q <;> decide

/-- From `s` to `t` the session advances, and its outcomes are put out. -/
def State.AdvancesTo (s t : State) : Prop :=
  ∃ os, outcomesOf t.out.events = outcomesOf s.out.events ++ os ∧ Advances s.pstate os t.pstate

theorem State.AdvancesTo.refl (s : State) : s.AdvancesTo s := ⟨[], (List.append_nil _).symm, .stay _⟩

theorem State.AdvancesTo.trans {s t u : State} (h : s.AdvancesTo t) (k : t.AdvancesTo u) : s.AdvancesTo u := by
  obtain ⟨os, outcomes, advance⟩ := h
  obtain ⟨os', outcomes', advance'⟩ := k
  exact ⟨os ++ os', by rw [outcomes', outcomes, List.append_assoc], advance.trans advance'⟩

/-- A frame advances the session by at most one entry (R212). -/
theorem offer_advances (p : Config.Params) (s : State) (r : FrameRecord) : s.AdvancesTo (s.offer p r) := by
  rcases offer_cases p s r with e | ⟨waiting, e⟩ | ⟨credentials, e⟩ <;> rw [e]
  · exact .refl s
  · exact ⟨_, outcomesOf_append _ _, advances_report .paired (code_lt_of_isWaiting waiting rfl)⟩
  · exact ⟨_, outcomesOf_append _ _, advances_report .pairingRequired (by rw [credentials]; decide)⟩

theorem deliver_advances (p : Config.Params) (s : State) (f : Bytes) : s.AdvancesTo (s.deliver p f) := by
  have surfaced {e : Event} (h : outcomesOf [e] = []) : s.AdvancesTo (s.emit e) :=
    ⟨[], by rw [emit_out, outcomesOf_append, h], .stay _⟩
  rcases deliver_cases p s f with ⟨r, -, e⟩ | ⟨w, -, e⟩ | ⟨-, e⟩ <;> rw [e]
  · exact (surfaced rfl).trans (offer_advances p _ r)
  · exact surfaced rfl
  · exact .refl s

theorem deliverAll_advances (p : Config.Params) (s : State) (fs : List Bytes) : s.AdvancesTo (s.deliverAll p fs) := by
  induction fs generalizing s with
  | nil => exact .refl s
  | cons f fs ih => exact (deliver_advances p s f).trans (ih _)

/-- The command answers a state to which the session has advanced from `p`, its outcomes among the command's events. -/
def AnswersAdvanced (p : PState) (a : Answer) : Prop :=
  ∃ t, a = .next t ∧ Advances p (outcomesOf t.out.events) t.pstate

/-- An answer written out by its outputs. -/
theorem answersAdvanced_outputs {p : PState} {a : Answer} {s : State} {r : Response} {es : List Event} {qs : List TxReq}
    (h : a = .next (s.outputs r es qs)) (advance : Advances p (outcomesOf es) s.pstate) : AnswersAdvanced p a :=
  ⟨_, h, advance⟩

theorem answersAdvanced_next {s t : State} (h : s.start.AdvancesTo t) : AnswersAdvanced s.pstate (.next t) := by
  obtain ⟨os, outcomes, advance⟩ := h
  exact ⟨t, rfl, outcomes ▸ advance⟩

section
variable {s : State}

theorem exec_pairStart_advances (ident pin : Bytes) : AnswersAdvanced s.pstate (exec (.pairStart ident pin) s) := by
  by_cases idle : s.pstate = .idle
  · cases bad : badString ident pin with
    | some x => exact answersAdvanced_outputs (exec_pairStart_of_badString idle bad) (.stay _)
    | none =>
      exact answersAdvanced_outputs (exec_pairStart_of_fits idle bad)
        (advances_silent (q := .triggerSent) (by rw [idle]; decide))
  · exact answersAdvanced_outputs (exec_pairStart_of_not_idle idle) (.stay _)

/-- A write is in flight in `TriggerSent` only (R28), so its end is the entry to `CredentialsSent` or to `Aborted`. -/
theorem exec_pairWriteDone_advances (ok : Bool) (legal : s.IsLegal) :
    AnswersAdvanced s.pstate (exec (.pairWriteDone ok) s) := by
  by_cases refused : s.phase = .none ∨ s.phase = .settle
  · exact answersAdvanced_outputs (exec_pairWriteDone_refused refused ok) (.stay _)
  · have trigger : s.pstate = .triggerSent := legal.triggerSent_of_phase fun c => refused (.inl c)
    have inFlight : s.phase = .trigWrite ∨ s.phase = .credWrite := by
      cases h : s.phase <;> simp [h] at refused ⊢
    cases ok with
    | false =>
      exact answersAdvanced_outputs (exec_pairWriteDone_failed inFlight)
        (advances_report (.pairingAborted .transport) (by rw [trigger]; decide))
    | true =>
      rcases inFlight with phase | phase
      · exact answersAdvanced_outputs (exec_pairWriteDone_trigger phase) (.stay _)
      · exact answersAdvanced_outputs (exec_pairWriteDone_credentials phase)
          (advances_silent (q := .credentialsSent) (by rw [trigger]; decide))

theorem exec_pairSettleDone_advances : AnswersAdvanced s.pstate (exec .pairSettleDone s) := by
  by_cases settle : s.phase = .settle
  · exact answersAdvanced_outputs (exec_pairSettleDone_of_settle settle) (.stay _)
  · exact answersAdvanced_outputs (exec_pairSettleDone_refused settle) (.stay _)

theorem exec_pairPollTick_advances : AnswersAdvanced s.pstate (exec .pairPollTick s) := by
  cases waiting : isWaiting s.pstate with
  | false => exact answersAdvanced_outputs (exec_pairPollTick_of_not_waiting waiting) (.stay _)
  | true =>
    rw [exec_pairPollTick_of_waiting waiting]
    rcases pollOnce_cases s.start with ⟨-, e⟩ | ⟨-, e⟩ <;> rw [e]
    · exact ⟨_, rfl, advances_report .pairingTimeout (code_lt_of_isWaiting waiting rfl)⟩
    · exact ⟨_, rfl, .stay _⟩

theorem exec_pairRx_advances (d : Bytes) : AnswersAdvanced s.pstate (exec (.pairRx d) s) := by
  cases decoded : decodeCore d s.strict with
  | ok r =>
    rw [exec_pairRx_of_ok decoded]
    exact answersAdvanced_next (offer_advances Config.params s.start r)
  | error e => exact answersAdvanced_outputs (exec_pairRx_of_error decoded) (.stay _)

theorem exec_pairCancel_advances : AnswersAdvanced s.pstate (exec .pairCancel s) := by
  by_cases handshake : s.pstate = .triggerSent ∨ isWaiting s.pstate = true
  · refine answersAdvanced_outputs (exec_pairCancel_of_handshake handshake) (advances_report (.pairingAborted .cancel) ?_)
    rcases handshake with trigger | waiting
    · rw [trigger]
      decide
    · exact code_lt_of_isWaiting waiting rfl
  · exact answersAdvanced_outputs (exec_pairCancel_refused handshake) (.stay _)

theorem exec_feed_advances (chunk : Bytes) : AnswersAdvanced s.pstate (exec (.feed chunk) s) := by
  by_cases cap : ExceedsCap s.acc chunk
  · exact answersAdvanced_outputs (exec_feed_of_exceeds cap) (.stay _)
  · obtain ⟨fs, acc, fed⟩ := feedChunk_delivers Config.params s.start chunk
    rw [exec_feed_of_fits cap, fed]
    exact answersAdvanced_next (deliverAll_advances Config.params s.start fs)

theorem exec_decode_advances (d : Bytes) : AnswersAdvanced s.pstate (exec (.decode d) s) := by
  cases decoded : decodeCore d s.strict with
  | ok r => exact answersAdvanced_outputs (exec_decode_of_ok decoded) (.stay _)
  | error e => exact answersAdvanced_outputs (exec_decode_of_error decoded) (.stay _)

theorem exec_encode_advances (target : Half) (flags commandSet commandId : Byte) (payload : Bytes) :
    AnswersAdvanced s.pstate (exec (.encode target flags commandSet commandId payload) s) := by
  by_cases fits : payload.length ≤ 1010
  · exact ⟨_, exec_encode_of_fits target flags commandSet commandId s fits, .stay _⟩
  · exact ⟨_, exec_encode_of_long target flags commandSet commandId s (not_le.mp fits), .stay _⟩

theorem exec_crc_advances (width : Byte) (poly init xorOut : Half) (refIn refOut : Bool) (data : Bytes) :
    AnswersAdvanced s.pstate (exec (.crc width poly init xorOut refIn refOut data) s) := by
  rw [exec, execCrc]
  split
  · exact ⟨_, rfl, .stay _⟩
  · exact ⟨_, rfl, .stay _⟩

/-- From a legal state every command but CONN_RESET advances the session. The commands without a lemma above answer OK and
leave the session alone. -/
theorem exec_advances {i : Instr} (noReset : i ≠ .connReset) (legal : s.legal = true) :
    AnswersAdvanced s.pstate (exec i s) := by
  cases i with
  | crc width poly init xorOut refIn refOut data => exact exec_crc_advances width poly init xorOut refIn refOut data
  | encode target flags commandSet commandId payload =>
    exact exec_encode_advances target flags commandSet commandId payload
  | decode data => exact exec_decode_advances data
  | feed chunk => exact exec_feed_advances chunk
  | pairStart ident pin => exact exec_pairStart_advances ident pin
  | pairWriteDone ok => exact exec_pairWriteDone_advances ok ((legal_iff s).mp legal)
  | pairSettleDone => exact exec_pairSettleDone_advances
  | pairPollTick => exact exec_pairPollTick_advances
  | pairRx data => exact exec_pairRx_advances data
  | pairCancel => exact exec_pairCancel_advances
  | connReset => exact absurd rfl noReset
  | crc8 _ | crc16 _ | seqReset _ | seqPeek | setStrict _ | pairStatus => exact ⟨_, rfl, .stay _⟩

end

theorem runCommands_advances {cmds : List Instr} (noReset : .connReset ∉ cmds) {s : State} (legal : s.legal = true) :
    ∃ outs t, runCommands cmds s = some (outs, t) ∧ Advances s.pstate (outcomesOf (eventsOf outs)) t.pstate := by
  induction cmds generalizing s with
  | nil => exact ⟨[], s, rfl, .stay _⟩
  | cons i is ih =>
    obtain ⟨notFirst, notLater⟩ := not_or.mp (mt List.mem_cons.mpr noReset)
    obtain ⟨t, first, advance⟩ := exec_advances (Ne.symm notFirst) legal
    obtain ⟨outs, u, others, advances⟩ := ih notLater (exec_keeps_legal i legal t first)
    refine ⟨_, u, runCommands_cons first others, ?_⟩
    rw [eventsOf_cons, outcomesOf_append]
    exact advance.trans advances

/-- Settles O53: it holds. Every command raises the code of `PSTATE` with each outcome, so no state is entered twice. -/
theorem outcomesAtMostOncePerSession : Obligations.OutcomesAtMostOncePerSession := by
  intro cmds s legal _ noReset
  obtain ⟨outs, t, run, advance⟩ := runCommands_advances noReset legal
  exact ⟨outs, t, run, advance.nodup⟩

/-! The bounded wait (R225, R233) -/

/-- The codes from `CredentialsSent` on are those of the bounded wait and of the terminal states. -/
theorem code_credentialsSent_le_iff (p : PState) :
    PState.code .credentialsSent ≤ p.code ↔ isWaiting p = true ∨ isTerminal p = true := by
  cases p <;> decide

section
variable {p q : PState} {os : List PairOutcome}

/-- A session that has come to the bounded wait is in it or past it (R232). -/
theorem Advances.reached (h : Advances p os q) (reached : isWaiting p = true ∨ isTerminal p = true) :
    isWaiting q = true ∨ isTerminal q = true :=
  (code_credentialsSent_le_iff q).mp (((code_credentialsSent_le_iff p).mpr reached).trans h.code_le)

/-- No session comes back to the bounded wait. -/
theorem Advances.waiting_before (h : Advances p os q) (reached : isWaiting p = true ∨ isTerminal p = true)
    (still : isWaiting q = true) : isWaiting p = true :=
  reached.resolve_right fun terminal => (code_lt_of_isWaiting still terminal).not_ge h.code_le

end

/-- A legal state that waits no longer, or whose wait `n` more poll ticks end. -/
structure State.WaitEndsWithin (n : Nat) (s : State) : Prop where
  legal : s.legal = true
  reached : isWaiting s.pstate = true ∨ isTerminal s.pstate = true
  enough : isWaiting s.pstate = true → 30 ≤ s.polls.toNat + n

/-- A tick in the bounded wait counts, or ends the wait (R225). -/
theorem pollOnce_counts {s : State} (below : s.polls.toNat < 30) :
    isWaiting s.pollOnce.pstate = true → s.pollOnce.polls.toNat = s.polls.toNat + 1 := by
  rcases pollOnce_cases s with ⟨-, e⟩ | ⟨-, e⟩ <;> rw [e]
  · exact nofun
  · intro _
    rw [setPolls_polls]
    bv_omega

/-- A command in the bounded wait that does not end it raises `POLLS` by one if it is a tick, else keeps it. -/
theorem exec_counts_ticks {i : Instr} {s t : State} (noReset : i ≠ .connReset) (legal : s.IsLegal)
    (waiting : isWaiting s.pstate = true) (answer : exec i s = .next t) (still : isWaiting t.pstate = true) :
    t.polls.toNat = s.polls.toNat + pollTicks [i] := by
  obtain ⟨-, -, -, -, -, -, keepsPolls, -⟩ := onlyListedCommandsWrite i s t answer
  cases i with
  | connReset => exact absurd rfl noReset
  | pairPollTick =>
    rw [exec_pairPollTick_of_waiting waiting] at answer
    obtain rfl := Host.Outcome.next.inj answer
    exact pollOnce_counts (s := s.start) (legal.polls_waiting waiting) still
  | pairWriteDone ok =>
    have noWrite : s.phase = .none := legal.phase_none (ne_triggerSent_of_waiting waiting)
    rw [exec_pairWriteDone_refused (.inl noWrite)] at answer
    obtain rfl := Host.Outcome.next.inj answer
    rfl
  | _ => exact congrArg BitVec.toNat (keepsPolls (by simp [Instr.opcode]))

theorem pollTicks_cons (i : Instr) (is : List Instr) : pollTicks (i :: is) = pollTicks [i] + pollTicks is :=
  List.count_append (l₁ := [i])

section
variable {s : State}

/-- Each command but CONN_RESET takes its share of the ticks to go. -/
theorem State.WaitEndsWithin.exec_next {i : Instr} {is : List Instr} (noReset : i ≠ .connReset)
    (h : s.WaitEndsWithin (pollTicks (i :: is))) : ∃ t, exec i s = .next t ∧ t.WaitEndsWithin (pollTicks is) := by
  obtain ⟨t, answer, advance⟩ := exec_advances noReset h.legal
  refine ⟨t, answer, exec_keeps_legal i h.legal t answer, advance.reached h.reached, fun still => ?_⟩
  have waiting := advance.waiting_before h.reached still
  have counted := exec_counts_ticks noReset ((legal_iff s).mp h.legal) waiting answer still
  have enough := h.enough waiting
  rw [pollTicks_cons] at enough
  omega

/-- With no tick to go a legal state waits no longer (R29). -/
theorem State.WaitEndsWithin.isTerminal (h : s.WaitEndsWithin 0) : isTerminal s.pstate = true := by
  refine h.reached.resolve_left fun waiting => ?_
  have enough := h.enough waiting
  have below := ((legal_iff s).mp h.legal).polls_waiting waiting
  omega

theorem State.WaitEndsWithin.run_ends {cmds : List Instr} (noReset : .connReset ∉ cmds)
    (h : s.WaitEndsWithin (pollTicks cmds)) :
    ∃ outs t, runCommands cmds s = some (outs, t) ∧ t.WaitEndsWithin 0 := by
  induction cmds generalizing s with
  | nil => exact ⟨[], s, rfl, h⟩
  | cons i is ih =>
    obtain ⟨notFirst, notLater⟩ := not_or.mp (mt List.mem_cons.mpr noReset)
    obtain ⟨t, first, ht⟩ := h.exec_next (Ne.symm notFirst)
    obtain ⟨outs, u, others, hu⟩ := ih notLater ht
    exact ⟨_, u, runCommands_cons first others, hu⟩

end

/-- Settles O52: it holds. Along the run the ticks to go are always enough, no command leads back to before the wait, and
no legal state waits with `POLLS` at 30. -/
theorem boundedWaitEnds : Obligations.BoundedWaitEnds := by
  intro cmds s legal waiting noReset enough
  obtain ⟨outs, t, run, ended⟩ := State.WaitEndsWithin.run_ends noReset ⟨legal, .inl waiting, fun _ => enough⟩
  exact ⟨outs, t, run, ended.isTerminal⟩

end Sys2Proof.Machine

/-! PROOFS. Statuses and effects (60_exceptions.md): an idle block (O10), the port's output (O13), and the three ways a
command can end, each with its status and what it keeps (O11, O12). -/

namespace Sys2Proof.Machine

/-! The empty port, and the output of the command before (R255, R265) -/

theorem fetch_of_empty {s : State} (empty : s.port = []) : s.fetch = none := by
  rw [State.fetch, empty]
  rfl

/-- Settles O10: it holds. Nothing is fetched from an empty port. -/
theorem idleHoldsState : Obligations.IdleHoldsState := by
  intro s empty
  rw [step, fetch_of_empty empty]

/-- Each meaning reads registers and goes on from `start` or `raise`, which replace the output whole. -/
theorem exec_start (i : Instr) (s : State) : exec i s.start = exec i s := by
  cases i <;> rfl

/-- Settles O13: it holds. A command begins alike in two states that differ in the output only. -/
theorem outputsAreNotSeen : Obligations.OutputsAreNotSeen := fun i s o =>
  calc exec i { s with out := o }
    _ = exec i { s with out := o }.start := (exec_start i _).symm
    _ = exec i s.start := rfl
    _ = exec i s := exec_start i s

/-! How a command ends (R94, R208, R250, R252) -/

/-- A command begun in `s` ends in `t` with response `r`, by `respond`, by `raise`, or by the `end` of a failed write. -/
inductive Ends (i : Instr) (s t : State) : Response → Prop
  | completed {v : Result} (response : t.out.response = some (.ok v)) : Ends i s t (.ok v)
  | raised {r : Response} (noEffect : t = s.outputs r [] []) (listed : statusCode r ∈ ownStatuses i.opcode)
      (notTransport : ∀ ph, r ≠ .errTransport ph) : Ends i s t r
  | writeFailed {ph : Phase} (command : i = .pairWriteDone false)
      (aborted : t = { s with pstate := .aborted, phase := .none }.outputs (.errTransport ph)
        [.outcome (.pairingAborted .transport)] []) : Ends i s t (.errTransport ph)

theorem ok_mem_ownStatuses (op : Opcode) : 0x00 ∈ ownStatuses op := by
  cases op <;> decide

section
variable {i : Instr} {s t : State} {r : Response}

theorem Ends.response (h : Ends i s t r) : t.out.response = some r := by
  cases h with
  | completed response => exact response
  | raised noEffect => rw [noEffect]; rfl
  | writeFailed _ aborted => rw [aborted]; rfl

theorem Ends.listed (h : Ends i s t r) : statusCode r ∈ ownStatuses i.opcode := by
  cases h with
  | completed => exact ok_mem_ownStatuses _
  | raised _ listed => exact listed
  | writeFailed command => rw [command]; exact .tail _ (.tail _ (.head _))

/-- What an error leaves behind (R252). -/
theorem Ends.of_error (h : Ends i s t r) (error : ∀ v, r ≠ .ok v) :
    ((∀ ph, r ≠ .errTransport ph) → t = s.outputs r [] [])
      ∧ ∀ ph, r = .errTransport ph → i = .pairWriteDone false
        ∧ t = { s with pstate := .aborted, phase := .none }.outputs r [.outcome (.pairingAborted .transport)] [] := by
  cases h with
  | completed => exact absurd rfl (error _)
  | raised noEffect _ notTransport => exact ⟨fun _ => noEffect, fun ph e => absurd e (notTransport ph)⟩
  | writeFailed command aborted => exact ⟨fun other => absurd rfl (other _), fun _ _ => ⟨command, aborted⟩⟩

end

/-- The command answers a next state, in one of the three ways. -/
def AnswersEnding (i : Instr) (s : State) : Prop := ∃ t r, exec i s = .next t ∧ Ends i s t r

section
variable {s : State}

theorem answersEnding_completed {i : Instr} {t : State} {v : Result} (answer : exec i s = .next t)
    (response : t.out.response = some (.ok v)) : AnswersEnding i s :=
  ⟨t, _, answer, .completed response⟩

/-- A command that ends by `raise`; `listed` is the status's place in the command's row of R250. -/
theorem answersEnding_raised {i : Instr} {r : Response} (answer : exec i s = .next (s.outputs r [] []))
    (listed : statusCode r ∈ ownStatuses i.opcode) (notTransport : ∀ ph, r ≠ .errTransport ph) : AnswersEnding i s :=
  ⟨_, r, answer, .raised rfl listed notTransport⟩

/-- The statuses of `DecodeCore` (R138, R141). -/
theorem statusCode_decodeCore {d : Bytes} {strict : Bool} {e : Response} (h : decodeCore d strict = .error e) :
    statusCode e ∈ [0x10, 0x11, 0x12, 0x13, 0x14] := by
  unfold decodeCore at h
  split_ifs at h <;> cases h <;> simp [statusCode]

theorem ne_errTransport_of_decodeCore {d : Bytes} {strict : Bool} {e : Response} (h : decodeCore d strict = .error e)
    (ph : Phase) : e ≠ .errTransport ph := by
  rintro rfl
  exact absurd (statusCode_decodeCore h) (by simp [statusCode])

theorem exec_crc_ends (width : Byte) (poly init xorOut : Half) (refIn refOut : Bool) (data : Bytes) :
    AnswersEnding (.crc width poly init xorOut refIn refOut data) s := by
  cases bad : badParam width poly init xorOut with
  | some field => exact answersEnding_raised (exec_crc_of_badParam bad refIn refOut data s) (.tail _ (.head _)) nofun
  | none => exact answersEnding_completed (exec_crc_of_accepted bad refIn refOut data s) rfl

theorem exec_encode_ends (target : Half) (flags commandSet commandId : Byte) (payload : Bytes) :
    AnswersEnding (.encode target flags commandSet commandId payload) s := by
  by_cases fits : payload.length ≤ 1010
  · exact answersEnding_completed (exec_encode_of_fits target flags commandSet commandId s fits) rfl
  · exact answersEnding_raised (exec_encode_of_long target flags commandSet commandId s (not_le.mp fits))
      (.tail _ (.head _)) nofun

theorem exec_decode_ends (d : Bytes) : AnswersEnding (.decode d) s := by
  cases decoded : decodeCore d s.strict with
  | ok f => exact answersEnding_completed (exec_decode_of_ok decoded) rfl
  | error e =>
    exact answersEnding_raised (exec_decode_of_error decoded) (.tail _ (statusCode_decodeCore decoded))
      (ne_errTransport_of_decodeCore decoded)

theorem exec_pairRx_ends (d : Bytes) : AnswersEnding (.pairRx d) s := by
  cases decoded : decodeCore d s.strict with
  | ok f => exact answersEnding_completed (exec_pairRx_of_ok decoded) rfl
  | error e =>
    exact answersEnding_raised (exec_pairRx_of_error decoded) (.tail _ (statusCode_decodeCore decoded))
      (ne_errTransport_of_decodeCore decoded)

theorem exec_feed_ends (chunk : Bytes) : AnswersEnding (.feed chunk) s := by
  by_cases cap : ExceedsCap s.acc chunk
  · exact answersEnding_raised (exec_feed_of_exceeds cap) (.tail _ (.head _)) nofun
  · exact answersEnding_completed (exec_feed_of_fits cap) rfl

theorem exec_pairStart_ends (ident pin : Bytes) : AnswersEnding (.pairStart ident pin) s := by
  by_cases idle : s.pstate = .idle
  · cases bad : badString ident pin with
    | some x => exact answersEnding_raised (exec_pairStart_of_badString idle bad) (.tail _ (.head _)) nofun
    | none => exact answersEnding_completed (exec_pairStart_of_fits idle bad) rfl
  · exact answersEnding_raised (exec_pairStart_of_not_idle idle) (.tail _ (.tail _ (.head _))) nofun

/-- The one command with an error that keeps effects: a write reported as failed while it is in flight (R208). -/
theorem exec_pairWriteDone_ends (ok : Bool) : AnswersEnding (.pairWriteDone ok) s := by
  have refused (h : s.phase = .none ∨ s.phase = .settle) : AnswersEnding (.pairWriteDone ok) s :=
    answersEnding_raised (exec_pairWriteDone_refused h ok) (.tail _ (.head _)) nofun
  have failed (h : s.phase = .trigWrite ∨ s.phase = .credWrite) : AnswersEnding (.pairWriteDone false) s :=
    ⟨_, _, exec_pairWriteDone_failed h, .writeFailed rfl rfl⟩
  cases phase : s.phase with
  | none => exact refused (.inl phase)
  | settle => exact refused (.inr phase)
  | trigWrite =>
    cases ok with
    | false => exact failed (.inl phase)
    | true => exact answersEnding_completed (exec_pairWriteDone_trigger phase) rfl
  | credWrite =>
    cases ok with
    | false => exact failed (.inr phase)
    | true => exact answersEnding_completed (exec_pairWriteDone_credentials phase) rfl

theorem exec_pairSettleDone_ends : AnswersEnding .pairSettleDone s := by
  by_cases settle : s.phase = .settle
  · exact answersEnding_completed (exec_pairSettleDone_of_settle settle) rfl
  · exact answersEnding_raised (exec_pairSettleDone_refused settle) (.tail _ (.head _)) nofun

theorem exec_pairCancel_ends : AnswersEnding .pairCancel s := by
  by_cases handshake : s.pstate = .triggerSent ∨ isWaiting s.pstate = true
  · exact answersEnding_completed (exec_pairCancel_of_handshake handshake) rfl
  · exact answersEnding_raised (exec_pairCancel_refused handshake) (.tail _ (.head _)) nofun

end

/-- Every command ends in one of the three ways. The commands without a lemma above always answer OK. -/
theorem exec_ends (i : Instr) (s : State) : AnswersEnding i s := by
  cases i with
  | crc width poly init xorOut refIn refOut data => exact exec_crc_ends width poly init xorOut refIn refOut data
  | encode target flags commandSet commandId payload => exact exec_encode_ends target flags commandSet commandId payload
  | decode data => exact exec_decode_ends data
  | feed chunk => exact exec_feed_ends chunk
  | pairStart ident pin => exact exec_pairStart_ends ident pin
  | pairWriteDone ok => exact exec_pairWriteDone_ends ok
  | pairSettleDone => exact exec_pairSettleDone_ends
  | pairRx data => exact exec_pairRx_ends data
  | pairCancel => exact exec_pairCancel_ends
  | crc8 _ | crc16 _ | seqReset _ | seqPeek | setStrict _ | pairPollTick | pairStatus | connReset =>
    exact answersEnding_completed rfl rfl

/-- Settles O11: it holds. Each of the three ways to end has one status, of the command's row. -/
theorem everyCommandEndsWithOneStatus : Obligations.EveryCommandEndsWithOneStatus := by
  intro i s
  obtain ⟨t, r, answer, ending⟩ := exec_ends i s
  exact ⟨t, r, answer, ending.response, ending.listed⟩

/-- Settles O12: it holds. `raise` keeps the state, and only a failed write ends in error without it. -/
theorem errorsHaveNoEffect : Obligations.ErrorsHaveNoEffect := by
  intro i s t r answer response error
  obtain ⟨u, r', answer', ending⟩ := exec_ends i s
  obtain rfl : t = u := Host.Outcome.next.inj (answer.symm.trans answer')
  obtain rfl : r = r' := Option.some.inj (response.symm.trans ending.response)
  exact ending.of_error error

end Sys2Proof.Machine

/-! PROOFS. Reset (70_reset_and_hazards.md section 1): what CONN_RESET writes (O54), the reset values after both resets
(O55), and the legality of the state after power-on (O56). -/

namespace Sys2Proof.Machine

/-- The registers after a connection reset (R282). -/
theorem connectionReset_eq (p : Config.Params) (s : State) :
    s.connectionReset p = { s with seq := p.seqInit, acc := [], pstate := .idle, phase := .none, polls := 0,
                                   paired := false, ident := [], pin := [] } := rfl

/-- Power-on does everything a connection reset does (R281), so that one more changes nothing. -/
theorem connectionReset_reset : State.reset.connectionReset Config.params = State.reset := rfl

/-- Settles O54: it holds. The reset runs between `start` and `respond`, which write the output only. -/
theorem connResetClearsConnection : Obligations.ConnResetClearsConnection := by
  intro s
  rw [exec, execConnReset, connectionReset_eq]
  rfl

/-- Settles O55: it holds. The table's second column is read off the next state of O54. -/
theorem resetValues : Obligations.ResetValues := by
  refine ⟨rfl, rfl, rfl, rfl, rfl, rfl, rfl, rfl, rfl, fun s => ⟨_, connResetClearsConnection s, ?_⟩⟩
  exact ⟨rfl, rfl, rfl, rfl, rfl, rfl, rfl, rfl, rfl⟩

/-- Settles O56: it holds. A connection reset makes any state legal, and the power-on state is one that it leaves as it is. -/
theorem resetIsLegal : Obligations.ResetIsLegal := by
  rw [Obligations.ResetIsLegal, ← connectionReset_reset]
  exact legal_connectionReset _

end Sys2Proof.Machine
